-- ==== Sys2Proof/Word.lean ====
section
/-! DEFINITION. The integer widths and byte sequences of the spec's notation (00_scope.md R8, R9, R10), and the explicit
narrowings of R9. Nothing here knows of the DGF. -/

namespace Sys2Proof

/-- A byte, 8 bits (R8). -/
abbrev Byte := BitVec 8

/-- `Bytes` of R10: a finite byte sequence, first byte first. -/
abbrev Bytes := List Byte

/-- `u16` of R9: an unsigned 16-bit value, read with `toNat`. -/
abbrev U16 := BitVec 16

/-- `s16` of R9: a two's-complement 16-bit value, read with `toInt`. -/
abbrev S16 := BitVec 16

/-- `u64` of R9: an unsigned 64-bit value, read with `toNat`. -/
abbrev U64 := BitVec 64

/-- The 32-bit command word of 30_encoding.md R76. -/
abbrev Word := BitVec 32

/-- `u16(v)` of R9: v mod 2^16. The same bits read as `s16(v)`. -/
def narrow16 (v : Int) : BitVec 16 := BitVec.ofInt 16 v

/-- The largest value a `u64` holds, plus one. -/
def u64Limit : Nat := 2 ^ 64

end Sys2Proof
end

