-- ==== Sys2Proof/Config.lean ====
section
/-! DEFINITION. The parameters of 00_scope.md R7 and the model's two uninterpreted constants. The source fixes some
parameters to one value: those are plain constants here. The parameters R7 leaves to the model's user are the fields of
`Params`, plain data that `Machine.State` carries and that no operation writes (R45), so one step function covers every choice
of them. -/

namespace Sys2Proof

namespace Config

/-- `MAX_PAYLOAD` of R7: the largest chunk and the largest inbound datagram, in bytes. -/
def maxPayload : Nat := 1400

/-- `HEADER_LEN` of R7: the wire length of a header datagram, in bytes. -/
def headerLen : Nat := 4

/-- `COUNT_MAX` of R7: the largest count a header can carry and DECODE accept. -/
def countMax : Nat := 32767

/-- `MSD_RESET` of R7: MSD after reset, in milliseconds. -/
def msdReset : U16 := 1

/-- A total checksum function other than the default, for the parameter choice `CrcAlg.custom` (R90: "Any other CRC16 a model
takes as a parameter must be a total function"). It has no body: a statement that holds for `custom` holds for every total
CRC16. -/
opaque customCrc16 : Bytes → U16

/-- The free value behind a pacing deadline whose exact sum of R120 does not fit the `u64` of PACE (R31); the spec states no
value there, only bounds (`Machine.openDeadline` keeps them). It is applied to the state's counter of free values, so that each use may differ. DESIGN CHOICE, log entry 8. -/
opaque freeDeadline : Nat → U64

end Config

/-- `COUNT_MODE` of R7: the chunk-count rule of SEND (R101, decision D1). -/
inductive CountMode where
  | ceil
  | nearest
  deriving DecidableEq, Repr

/-- `HDR_ORDER` of R7: the byte order of both header fields (R53, decision D2). -/
inductive HdrOrder where
  | be
  | le
  deriving DecidableEq, Repr

/-- `CRC16` of R7: the header checksum, CRC-16/X-25 by default (R90, decision D3), or any other total function. -/
inductive CrcAlg where
  | x25
  | custom
  deriving DecidableEq, Repr

/-- `REM_RESET` of R7: REM after reset, 0 or −1 (decision D5). -/
inductive RemReset where
  | zero
  | minusOne
  deriving DecidableEq, Repr

/-- The `s16` value a choice of `REM_RESET` stands for. -/
def RemReset.value : RemReset → S16
  | .zero => 0
  | .minusOne => -1

/-- The parameters R7 leaves open. -/
structure Params where
  countMode : CountMode
  hdrOrder  : HdrOrder
  crc       : CrcAlg
  mssReset  : U16
  remReset  : RemReset
  /-- `BUF_CAP` of R7 and R51, in bytes. `none` is the spec's "unbounded". -/
  bufCap    : Option Nat
  deriving DecidableEq, Repr

/-- The defaults of R7. -/
def Params.default : Params where
  countMode := .ceil
  hdrOrder := .be
  crc := .x25
  mssReset := 1400
  remReset := .zero
  bufCap := none

end Sys2Proof
end

