-- ==== Sys2Proof/Syntax.lean ====
section
/-! DEFINITION. What reaches the block: the operations of 30_encoding.md R78 with their operands, the two wire formats of R70
and R73, the agents of 60_exceptions.md R184, and the form of an input event before it is decoded (R76). -/

namespace Sys2Proof

/-- `Addr` of R7 and R46: a network address, opaque, with equality only. DESIGN CHOICE, log entry 3. -/
structure Addr where
  id : Nat
  deriving DecidableEq, Repr

/-- A network endpoint: the pair `(addr, port)` of R24 and R25. -/
structure Endpoint where
  addr : Addr
  port : U16
  deriving DecidableEq, Repr

/-- One constructor per row of `spec/opcode_table.json`. The first sixteen are command words (R78). `header` and `dataChunk` are
the rows of the two wire formats: a datagram of that format that the transport delivers to the block (log entry 2). -/
inductive Instr where
  /-- OP 0x0, refused whatever its other 28 bits hold (R79). -/
  | reserved0 (x : BitVec 28)
  /-- OP 0x1, `send(rawBytes)` (R103). -/
  | send (data : Bytes)
  /-- OP 0x2, the transport's "write completed" (R105). -/
  | writeDone
  /-- OP 0x3, the transport's "data arrived" for one datagram (R131). -/
  | rxDgram (data : Bytes)
  /-- OP 0x4, the transport's failure notification (R173). -/
  | xportError (info : U16)
  /-- OP 0x5, the scheduler-deferred callback (R121). -/
  | paceFire
  /-- OP 0x6 (R150). -/
  | setMsd (value : U16)
  /-- OP 0x7 (R151). -/
  | getMsd
  /-- OP 0x8 (R152). -/
  | setMss (value : U16)
  /-- OP 0x9 (R153). -/
  | getMss
  /-- OP 0xA (R154). -/
  | setDest (addr : Addr) (port : U16)
  /-- OP 0xB; `ok` is the transport's verdict (R155). -/
  | bind (addr : Addr) (port : U16) (ok : Bool)
  /-- OP 0xC (R157). -/
  | isStreaming
  /-- OP 0xD, the time base (R158). -/
  | tick (t : U64)
  /-- OP 0xE, power-on reset (R200). -/
  | reset
  /-- OP 0xF, refused whatever its other 28 bits hold (R79). -/
  | reservedF (x : BitVec 28)
  /-- A header datagram on the wire: count field C and checksum field K (R70, R71). -/
  | header (count : U16) (checksum : U16)
  /-- A data datagram on the wire: raw payload bytes (R73). -/
  | dataChunk (data : Bytes)
  deriving DecidableEq, Repr

/-- The five agents that cause input events (R184). -/
inductive Agent where
  | host
  | transport
  | pacingTimer
  | timeBase
  | powerOnReset
  deriving DecidableEq, Repr

/-- The side-channel operand that travels with a command word: at most one (R76). -/
inductive Side where
  | none
  | data (d : Bytes)
  | addr (a : Addr)
  | time (t : U64)
  deriving DecidableEq, Repr

/-- One input event as it reaches the block, not yet decoded: a command word with its side-channel operand (R76), or a datagram
as it stands on the wire (R70, R73). -/
inductive Input where
  | command (word : Word) (side : Side)
  | wire (datagram : Bytes)
  deriving DecidableEq, Repr

/-- Who causes each event, as R184 lists them. BIND is the host's, with the transport's verdict. A reserved word has no agent in
R78's table. -/
def Instr.agents : Instr → List Agent
  | .reserved0 _ => []
  | .send _ => [.host]
  | .writeDone => [.transport]
  | .rxDgram _ => [.transport]
  | .xportError _ => [.transport]
  | .paceFire => [.pacingTimer]
  | .setMsd _ => [.host]
  | .getMsd => [.host]
  | .setMss _ => [.host]
  | .getMss => [.host]
  | .setDest _ _ => [.host]
  | .bind _ _ _ => [.host, .transport]
  | .isStreaming => [.host]
  | .tick _ => [.timeBase]
  | .reset => [.powerOnReset]
  | .reservedF _ => []
  | .header _ _ => [.transport]
  | .dataChunk _ => [.transport]

end Sys2Proof
end

