-- ==== Sys2Proof/Machine/State.lean ====
section
/-! DEFINITION. The state of one DGF instance (10_state.md), its output events (30_encoding.md R80), its error conditions
(60_exceptions.md R170), its refusal reasons (R179), and the ways a step stops. Plain data throughout. -/

namespace Sys2Proof.Machine

/-- INFLIGHT of R29: the write issued and not yet confirmed. -/
inductive Inflight where
  | none
  | hdr
  | chunk (k : Nat)
  deriving DecidableEq, Repr

/-- PACE of R31: the Pacing Scheduler's deferred task. -/
inductive Pace where
  | idle
  | armed (deadline : U64)
  deriving DecidableEq, Repr

/-- The contents of DEST and LOCAL (R24, R25): the spec's own `UNSET`, or an endpoint. -/
inductive EndpointReg where
  | unset
  | set (e : Endpoint)
  deriving DecidableEq, Repr

/-- The reasons DECODE rejects a header (R92). -/
inductive HeaderReject where
  | crcMismatch
  | nonpositive
  deriving DecidableEq, Repr

/-- The error conditions the block detects, each with its info (R170). StalledReceive is not detected (R174). -/
inductive ErrorCond where
  | bindFailure (requested : Endpoint)
  | headerReject (reason : HeaderReject) (datagram : Bytes)
  | transportError (info : U16)
  deriving DecidableEq, Repr

/-- The value a query returns, `u16` or `bool` (R80). -/
inductive RetVal where
  | word (v : U16)
  | flag (b : Bool)
  deriving DecidableEq, Repr

/-- The output events of R80. `log` holds the condition; its code is `ErrorCond.code`. -/
inductive Output where
  | tx (dest : EndpointReg) (data : Bytes)
  | sent
  | readyBytes (data : Bytes)
  | decodeReq (data : Bytes)
  | log (cond : ErrorCond)
  | ret (value : RetVal)
  deriving DecidableEq, Repr

/-- The refusal reasons of R179. A spec refusal is a NEXT state with REFUSED set (R178), not a stop of the model. -/
inductive RefuseReason where
  | zeroChunk
  | countRange
  | bufferCap
  | rxOversize
  | reservedCmd
  deriving DecidableEq, Repr

/-- The state of one DGF instance: the elements of 10_state.md R22 to R36, and after them the model's own fields (log entries 1,
4, 5, 7 and 8). -/
structure State where
  /-- MSD (R22). -/
  msd : U16
  /-- MSS (R23). -/
  mss : U16
  /-- DEST (R24). -/
  dest : EndpointReg
  /-- LOCAL (R25). -/
  localEp : EndpointReg
  /-- BOUND (R26). -/
  bound : Bool
  /-- TXBUF (R27). -/
  txbuf : Bytes
  /-- CHUNK (R28). -/
  chunk : U16
  /-- INFLIGHT (R29). -/
  inflight : Inflight
  /-- LAST_TX (R30). -/
  lastTx : U64
  /-- PACE (R31). -/
  pace : Pace
  /-- REM (R32), read with `toInt`. -/
  rem : S16
  /-- RXBUF (R33). -/
  rxbuf : Bytes
  /-- RX_TS (R34). -/
  rxTs : U64
  /-- NOW (R35). -/
  now : U64
  /-- REFUSED (R36). -/
  refused : Bool
  /-- The parameters of R7. No operation writes them (R45). The model's own field. -/
  params : Params
  /-- The input events the environment has in store, the next one first. The model's own field. -/
  pending : List Input
  /-- The block's output sequence so far (R61, R80), oldest first. The model's own field. -/
  outputs : List Output
  /-- The reasons of the refusals so far, oldest first. The model's own field. -/
  refusals : List RefuseReason
  /-- How many free values have been drawn. The model's own field. -/
  freeCount : Nat
  deriving DecidableEq, Repr

/-- The values of 10_state.md R39 under the given parameters, with nothing pending and nothing emitted. -/
def State.powerOn (p : Params) : State where
  msd := Config.msdReset
  mss := p.mssReset
  dest := .unset
  localEp := .unset
  bound := false
  txbuf := []
  chunk := 0
  inflight := .none
  lastTx := 0
  pace := .idle
  rem := p.remReset.value
  rxbuf := []
  rxTs := 0
  now := 0
  refused := false
  params := p
  pending := []
  outputs := []
  refusals := []
  freeCount := 0

/-- The machine right after reset, under the default parameters of R7 (R39, R200). -/
def State.reset : State := State.powerOn Params.default

/-- Why a step stops. Each is an event for which the spec gives its agent "no move" in the state at hand (00_scope.md R11
`enabled when`, 60_exceptions.md R187), but for the last. All are SAFE: the machine stops where the spec gives no step. -/
inductive Fault where
  /-- WRITE_DONE while INFLIGHT = NONE (R105, R187 item 1). Safe: no next state is claimed. -/
  | writeDoneNoMove
  /-- PACE_FIRE while PACE = IDLE or NOW is below the deadline (R121). Safe: no next state is claimed. -/
  | paceFireNoMove
  /-- A datagram (RX_DGRAM, HEADER, DATA_CHUNK) while BOUND = false (R131, R187 item 2). Safe: no next state is claimed. -/
  | rxDgramNoMove
  /-- TICK with t < NOW (R158, R187 item 3). Safe: no next state is claimed. -/
  | tickNoMove
  /-- The step's: a command word that came without the side-channel operand its OP takes (R76). The spec gives such an event no
  meaning. Safe: no next state is claimed. -/
  | operandMissing
  deriving DecidableEq, Repr

/-- Why an instruction has no meaning in the model. -/
inductive Refusal where
  /-- Raised by `exec` for an instruction that has no meaning yet. No arm raises it now. Safe: no next state is claimed. -/
  | notModelled (mnemonic : String)
  deriving DecidableEq, Repr

/-- The outcome of one step of this machine. -/
abbrev Outcome := Host.Outcome State Fault Refusal

end Sys2Proof.Machine
end

