-- ==== Sys2Proof/Machine/Flags.lean ====
section
/-! DEFINITION. The block has no condition codes (10_state.md R37). Its flags are the status views of R37, the receiver states of
43_receiver.md R130, and the enabling conditions of the operations (00_scope.md R11), all functions of the state. -/

namespace Sys2Proof.Machine

/-- STREAMING (R37, R157): TXBUF is non-empty. -/
def State.streaming (s : State) : Bool := decide (0 < s.txbuf.length)

/-- The receiver is Accumulating, REM > 0 (R37). Otherwise it is AwaitingHeader. -/
def State.accumulating (s : State) : Bool := decide (0 < s.rem.toInt)

/-- The receiver states of R130. -/
inductive RxState where
  | idle
  | donePending
  | accum (r : Int)
  deriving DecidableEq, Repr

/-- The receiver state (R130). REM = −1 with bytes held, which R43 rules out, reads as `donePending`: step 2 treats it so. -/
def State.rxState (s : State) : RxState :=
  if 0 < s.rem.toInt then .accum s.rem.toInt
  else if s.rxbuf.length = 0 then .idle
  else .donePending

/-- WRITE_DONE is enabled when INFLIGHT ≠ NONE (R105). -/
def State.writeDoneEnabled (s : State) : Bool := decide (s.inflight ≠ .none)

/-- PACE_FIRE is enabled when PACE = ARMED(d) and NOW ≥ d (R121). -/
def State.paceFireEnabled (s : State) : Bool :=
  match s.pace with
  | .idle => false
  | .armed d => decide (d.toNat ≤ s.now.toNat)

/-- A datagram is delivered only while BOUND (R131). -/
def State.rxEnabled (s : State) : Bool := s.bound

/-- TICK(t) is enabled when t ≥ NOW (R158). -/
def State.tickEnabled (s : State) (t : U64) : Bool := decide (s.now.toNat ≤ t.toNat)

end Sys2Proof.Machine
end

