-- ==== Sys2Proof/Decode.lean ====
section
/-! DEFINITION. From an input event to an instruction and back: the fields of the command word (30_encoding.md R76), the
operation codes (R78), the reserved words (R79), operand assembly (R77), and the wire formats (R71, R73, R74). `decode` is total
and rejects by name. `encode` is written from the same tables. -/

namespace Sys2Proof

/-- The sixteen values of the OP field (R78). -/
inductive Op where
  | reserved0 | send | writeDone | rxDgram | xportError | paceFire | setMsd | getMsd
  | setMss | getMss | setDest | bind | isStreaming | tick | reset | reservedF
  deriving DecidableEq, Repr

/-- The OP column of R78. -/
def Op.code : Op → BitVec 4
  | .reserved0 => 0x0
  | .send => 0x1
  | .writeDone => 0x2
  | .rxDgram => 0x3
  | .xportError => 0x4
  | .paceFire => 0x5
  | .setMsd => 0x6
  | .getMsd => 0x7
  | .setMss => 0x8
  | .getMss => 0x9
  | .setDest => 0xA
  | .bind => 0xB
  | .isStreaming => 0xC
  | .tick => 0xD
  | .reset => 0xE
  | .reservedF => 0xF

/-- The operation an OP field names (R78). -/
def Op.ofCode (c : BitVec 4) : Op :=
  match c.toNat with
  | 0x0 => .reserved0
  | 0x1 => .send
  | 0x2 => .writeDone
  | 0x3 => .rxDgram
  | 0x4 => .xportError
  | 0x5 => .paceFire
  | 0x6 => .setMsd
  | 0x7 => .getMsd
  | 0x8 => .setMss
  | 0x9 => .getMss
  | 0xA => .setDest
  | 0xB => .bind
  | 0xC => .isStreaming
  | 0xD => .tick
  | 0xE => .reset
  | _ => .reservedF

/-- The operations that take IMM (the operands column of R78; the list in R79 is its complement). -/
def Op.takesImm : Op → Bool
  | .xportError => true
  | .setMsd => true
  | .setMss => true
  | .setDest => true
  | .bind => true
  | _ => false

/-- Why a command word and its operand name no instruction. -/
inductive DecodeReject where
  /-- RSVD ≠ 0 (R79). -/
  | rsvdNonzero
  /-- F = 1 with an OP other than BIND (R79). -/
  | flagNonzero
  /-- IMM ≠ 0 with an OP that takes no IMM (R79). -/
  | immNonzero
  /-- The side-channel operand of R76 that the OP needs did not come with the word. -/
  | missingOperand
  deriving DecidableEq, Repr

/-! ### The fields of the command word (R76) -/

/-- `OP = word[31:28]`. -/
def opField (w : Word) : BitVec 4 := w.extractLsb' 28 4

/-- `RSVD = word[27:17]`. -/
def rsvdField (w : Word) : BitVec 11 := w.extractLsb' 17 11

/-- `F = word[16]`. -/
def flagField (w : Word) : Bool := w.getLsbD 16

/-- `IMM = word[15:0]`, unsigned (R77). -/
def immField (w : Word) : U16 := w.extractLsb' 0 16

/-- The command word with the given fields and RSVD = 0 (R76). -/
def commandWord (op : Op) (f : Bool) (imm : U16) : Word :=
  op.code ++ ((0 : BitVec 11) ++ (BitVec.ofBool f ++ imm))

/-- The command word of a reserved OP with its 28 free bits (the `x` bits of the table's reserved rows, R83). -/
def reservedWord (op : Op) (x : BitVec 28) : Word := op.code ++ x

/-- The reserved-word tests of R79 for an OP other than 0x0 and 0xF. -/
def reservedTest (op : Op) (w : Word) : Option DecodeReject :=
  if rsvdField w ≠ 0 then some .rsvdNonzero
  else if flagField w = true ∧ op ≠ .bind then some .flagNonzero
  else if immField w ≠ 0 ∧ op.takesImm = false then some .immNonzero
  else none

/-- Operand assembly (R77): IMM as it stands, F for BIND, and the side channel the OP takes. A side-channel operand supplied
with an OP that takes none is ignored (R79). -/
def assemble (op : Op) (w : Word) (side : Side) : Except DecodeReject Instr :=
  match op with
  | .reserved0 => .ok (.reserved0 (w.extractLsb' 0 28))
  | .send =>
    match side with
    | .data d => .ok (.send d)
    | .none | .addr _ | .time _ => .error .missingOperand
  | .writeDone => .ok .writeDone
  | .rxDgram =>
    match side with
    | .data d => .ok (.rxDgram d)
    | .none | .addr _ | .time _ => .error .missingOperand
  | .xportError => .ok (.xportError (immField w))
  | .paceFire => .ok .paceFire
  | .setMsd => .ok (.setMsd (immField w))
  | .getMsd => .ok .getMsd
  | .setMss => .ok (.setMss (immField w))
  | .getMss => .ok .getMss
  | .setDest =>
    match side with
    | .addr a => .ok (.setDest a (immField w))
    | .none | .data _ | .time _ => .error .missingOperand
  | .bind =>
    match side with
    | .addr a => .ok (.bind a (immField w) (flagField w))
    | .none | .data _ | .time _ => .error .missingOperand
  | .isStreaming => .ok .isStreaming
  | .tick =>
    match side with
    | .time t => .ok (.tick t)
    | .none | .data _ | .addr _ => .error .missingOperand
  | .reset => .ok .reset
  | .reservedF => .ok (.reservedF (w.extractLsb' 0 28))

/-- A command word with its side-channel operand (R76 to R79). OP 0x0 and OP 0xF name the table's reserved rows whatever their
other bits are. -/
def decodeCommand (w : Word) (side : Side) : Except DecodeReject Instr :=
  let op := Op.ofCode (opField w)
  if op = .reserved0 ∨ op = .reservedF then assemble op w side
  else
    match reservedTest op w with
    | some r => .error r
    | none => assemble op w side

/-! ### The wire formats (R70 to R75) -/

/-- A 16-bit field as two wire bytes, in byte order (R53, R71). -/
def fieldBytes (o : HdrOrder) (v : U16) : Bytes :=
  match o with
  | .be => [v.extractLsb' 8 8, v.extractLsb' 0 8]
  | .le => [v.extractLsb' 0 8, v.extractLsb' 8 8]

/-- The 16-bit field that two wire bytes hold, in byte order (R53, R71). -/
def fieldOf (o : HdrOrder) (first second : Byte) : U16 :=
  match o with
  | .be => first ++ second
  | .le => second ++ first

/-- The four bytes of a header datagram with fields C and K (R70, R71). -/
def headerBytes (o : HdrOrder) (count checksum : U16) : Bytes :=
  fieldBytes o count ++ fieldBytes o checksum

/-- A datagram on the wire, told apart by its length alone (R74): four bytes are a header candidate, any other length is data. -/
def decodeDatagram (o : HdrOrder) (d : Bytes) : Instr :=
  match d with
  | [b0, b1, b2, b3] => .header (fieldOf o b0 b1) (fieldOf o b2 b3)
  | _ => .dataChunk d

/-- The instruction an input event stands for. Header fields are read in the link's byte order. -/
def decode (o : HdrOrder) : Input → Except DecodeReject Instr
  | .command w side => decodeCommand w side
  | .wire d => .ok (decodeDatagram o d)

/-- The input event that stands for an instruction: the command words of R78 and R81 with their operands, or the wire bytes of R71
and R73. -/
def encode (o : HdrOrder) : Instr → Input
  | .reserved0 x => .command (reservedWord .reserved0 x) .none
  | .send d => .command (commandWord .send false 0) (.data d)
  | .writeDone => .command (commandWord .writeDone false 0) .none
  | .rxDgram d => .command (commandWord .rxDgram false 0) (.data d)
  | .xportError info => .command (commandWord .xportError false info) .none
  | .paceFire => .command (commandWord .paceFire false 0) .none
  | .setMsd v => .command (commandWord .setMsd false v) .none
  | .getMsd => .command (commandWord .getMsd false 0) .none
  | .setMss v => .command (commandWord .setMss false v) .none
  | .getMss => .command (commandWord .getMss false 0) .none
  | .setDest a port => .command (commandWord .setDest false port) (.addr a)
  | .bind a port ok => .command (commandWord .bind ok port) (.addr a)
  | .isStreaming => .command (commandWord .isStreaming false 0) .none
  | .tick t => .command (commandWord .tick false 0) (.time t)
  | .reset => .command (commandWord .reset false 0) .none
  | .reservedF x => .command (reservedWord .reservedF x) .none
  | .header c k => .wire (headerBytes o c k)
  | .dataChunk d => .wire d

/-! ### The opcode table's words -/

/-- The side-channel operand of an OP with every bit 0: no bytes, address 0, time 0. The table gives side channels no bits. -/
def zeroSide : Op → Side
  | .send => .data []
  | .rxDgram => .data []
  | .setDest => .addr ⟨0⟩
  | .bind => .addr ⟨0⟩
  | .tick => .time 0
  | _ => .none

/-- The n bytes of a number whose byte 0 is the least significant. -/
def bytesOfNat : Nat → Nat → Bytes
  | 0, _ => []
  | n + 1, w => BitVec.ofNat 8 w :: bytesOfNat n (w / 256)

/-- The input event a table row's bits stand for. A 32-bit row is a command word (R76), with an all-zero side-channel operand. A
row of another number of bytes is a datagram on the wire, first byte first. The HEADER row has 32 bits too, and its bits
arrive on the wire, not as a command word: log entry 2. -/
def tableInput (nbits w : Nat) : Input :=
  if nbits = 32 then
    .command (BitVec.ofNat 32 w) (zeroSide (Op.ofCode (opField (BitVec.ofNat 32 w))))
  else .wire (bytesOfNat (nbits / 8) w)

/-- The instruction the decoder reads from a table row's bits, header fields in the default byte order. -/
def decodeTableWord (nbits w : Nat) : Option Instr :=
  match decode Params.default.hdrOrder (tableInput nbits w) with
  | .ok i => some i
  | .error _ => none

end Sys2Proof
end

