-- ==== Sys2Proof/Machine/HeaderCodec.lean ====
section
/-! DEFINITION. The Header Codec (40_header_codec.md): CRC16, ENCODE and DECODE. It holds no state and emits nothing. -/

namespace Sys2Proof.Machine

/-- One of the eight bit steps of R90, least significant bit first. -/
def crcBit (r : U16) : U16 :=
  if r.getLsbD 0 then (r >>> 1) ^^^ 0x8408 else r >>> 1

/-- `n` bit steps. -/
def crcBits : Nat → U16 → U16
  | 0, r => r
  | n + 1, r => crcBits n (crcBit r)

/-- One byte of R90's outer loop. -/
def crcByte (r : U16) (b : Byte) : U16 := crcBits 8 (r ^^^ b.setWidth 16)

/-- CRC-16/X-25, the bitwise definition of R90: initial value 0xFFFF, polynomial 0x8408 (reflected), final XOR 0xFFFF. -/
def crcX25 (bs : Bytes) : U16 := bs.foldl crcByte 0xFFFF ^^^ 0xFFFF

/-- The header checksum under the parameter CRC16 of R7. -/
def crc16 (alg : CrcAlg) (bs : Bytes) : U16 :=
  match alg with
  | .x25 => crcX25 bs
  | .custom => Config.customCrc16 bs

/-- ENCODE (R91): total on `s16`, always four bytes. The checksum covers the count bytes as they stand on the wire (R72). -/
def encodeHeader (alg : CrcAlg) (o : HdrOrder) (count : S16) : Bytes :=
  headerBytes o count (crc16 alg (fieldBytes o count))

/-- DECODE (R92): the checksum is tested before the sign. It is never applied to another length than four; there the function
answers `crcMismatch`, which nothing reads. -/
def decodeHeader (alg : CrcAlg) (o : HdrOrder) (d : Bytes) : Except HeaderReject S16 :=
  match d with
  | [b0, b1, b2, b3] =>
    if crc16 alg [b0, b1] ≠ fieldOf o b2 b3 then .error .crcMismatch
    else if (fieldOf o b0 b1).toInt ≤ 0 then .error .nonpositive
    else .ok (fieldOf o b0 b1)
  | _ => .error .crcMismatch

/-- The LOG code of an error condition (R170). -/
def ErrorCond.code : ErrorCond → Byte
  | .bindFailure _ => 0x01
  | .headerReject .crcMismatch _ => 0x02
  | .headerReject .nonpositive _ => 0x03
  | .transportError _ => 0x04

/-- The code of an output event (R80). -/
def Output.code : Output → BitVec 4
  | .tx _ _ => 0x1
  | .sent => 0x2
  | .readyBytes _ => 0x3
  | .decodeReq _ => 0x4
  | .log _ => 0x5
  | .ret _ => 0x6

end Sys2Proof.Machine
end

