-- ==== Sys2Proof/Machine/Operands.lean ====
section
/-! DEFINITION. The values the engines compute from their operands and the registers: the chunk size and count of a send
(41_sender.md R100, R101), the slice a firing sends (42_pacing.md R121), the deadline of an arm (R120), and the domains outside
which SEND and a datagram are refused (R102, 43_receiver.md R131). Side-channel and IMM assembly (30_encoding.md R77) is the
decoder's. -/

namespace Sys2Proof.Machine

/-- The chunk size `min(MAX_PAYLOAD, MSS)` (R100). -/
def chunkSize (mss : U16) : Nat := min Config.maxPayload mss.toNat

/-- CHUNK_COUNT (R101), for L ≥ 1 and cs ≥ 1. NEAREST rounds ties up (decision D18). -/
def chunkCount (mode : CountMode) (len cs : Nat) : Nat :=
  match mode with
  | .ceil => (len + cs - 1) / cs
  | .nearest => (2 * len + cs) / (2 * cs)

/-- Whether a buffer of n bytes would exceed a finite BUF_CAP (R51). -/
def exceedsCap (cap : Option Nat) (n : Nat) : Bool :=
  match cap with
  | none => false
  | some c => decide (c < n)

/-- The refusal tests of a SEND that passed the no-op test, in R102's order: the first that applies gives the reason. -/
def sendRefusal (s : State) (data : Bytes) : Option RefuseReason :=
  if chunkSize s.mss = 0 then some .zeroChunk
  else if Config.countMax < chunkCount s.params.countMode data.length (chunkSize s.mss) then some .countRange
  else if exceedsCap s.params.bufCap data.length then some .bufferCap
  else none

/-- The refusal tests of an inbound datagram, in the order of R131 and R182. -/
def rxRefusal (s : State) (d : Bytes) : Option RefuseReason :=
  if Config.maxPayload < d.length then some .rxOversize
  else if 0 < s.rem.toInt ∧ exceedsCap s.params.bufCap (s.rxbuf.length + d.length) = true then some .bufferCap
  else none

/-- The length of the next chunk, `min(CHUNK, len(TXBUF))` (R121). -/
def sliceLength (s : State) : Nat := min s.chunk.toNat s.txbuf.length

/-- The deadline of an arm, computed as R120 writes it, on `Int` (R9). -/
def armDeadline (s : State) : Int :=
  let elapsed : Int := s.now.toNat - s.lastTx.toNat
  if elapsed ≥ s.msd.toNat then s.now.toNat else s.now.toNat + (s.msd.toNat - elapsed)

/-- The deadline of an arm whose exact sum does not fit the `u64` of R31: a free value within the bounds the rules set, no earlier
than NOW (R120) and no earlier than the last issue (R44). DESIGN CHOICE, log entry 8. -/
def openDeadline (s : State) : U64 :=
  BitVec.ofNat 64 (max (max s.now.toNat s.lastTx.toNat) (Config.freeDeadline s.freeCount).toNat)

end Sys2Proof.Machine
end

