-- ==== Sys2Proof/Machine/Ops.lean ====
section
/-! DEFINITION. The shared operations: the pseudocode primitives `emit`, `raise` and `refuse` of 00_scope.md R11, issuing a
datagram, arming the scheduler (42_pacing.md R120), and the three steps of the receiver (43_receiver.md R132 to R134). -/

namespace Sys2Proof.Machine

/-- `emit E` (R11): append to the output sequence. -/
def emit (o : Output) (s : State) : State := { s with outputs := s.outputs ++ [o] }

/-- `raise X(info)`, the error-path entry (R11, R175): one LOG output and nothing else. It saves nothing, changes no mode and
transfers control nowhere; the step goes on. There is no return from it (R176). -/
def raise (c : ErrorCond) (s : State) : State := emit (.log c) s

/-- `refuse R` (R11, R178): the sticky mark, and the reason in the model's own record. -/
def refuse (r : RefuseReason) (s : State) : State :=
  { s with refused := true, refusals := s.refusals ++ [r] }

/-- `return v` (R11). -/
def answer (v : RetVal) (s : State) : State := emit (.ret v) s

/-- Issue one whole datagram (R56): TX with the current DEST, INFLIGHT to what was issued, LAST_TX to NOW (R103, R121). -/
def issue (data : Bytes) (w : Inflight) (s : State) : State :=
  emit (.tx s.dest data) { s with inflight := w, lastTx := s.now }

/-- The body of PACE_FIRE (R121): the next slice of TXBUF is issued, and the deferred task is done. -/
def fireSlice (s : State) : State :=
  issue (s.txbuf.take (sliceLength s)) (.chunk (sliceLength s)) { s with pace := .idle }

/-- PACE ← ARMED(d). A deadline that does not fit the `u64` of R31 becomes a free value within its bounds (log entry 8). -/
def armAt (d : Int) (s : State) : State :=
  if d < u64Limit then { s with pace := .armed (BitVec.ofInt 64 d) }
  else { s with pace := .armed (openDeadline s), freeCount := s.freeCount + 1 }

/-- PACE_ARM (R120). -/
def paceArm (s : State) : State := armAt (armDeadline s) s

/-- The bytes a confirmation removes from TXBUF (R105): those of the chunk in flight, none for a header. -/
def Inflight.confirmedLength : Inflight → Nat
  | .none => 0
  | .hdr => 0
  | .chunk k => k

/-- The first two lines of WRITE_DONE (R105): the confirmed bytes leave TXBUF, and nothing is outstanding. -/
def confirmWrite (s : State) : State :=
  { s with txbuf := s.txbuf.drop s.inflight.confirmedLength, inflight := .none }

/-- Step 1 of the receiver, accumulate (R132). -/
def accumulate (d : Bytes) (s : State) : State :=
  { s with rem := s.rem - 1, rxbuf := s.rxbuf ++ d, rxTs := s.now }

/-- Step 2 of the receiver, complete (R133): READY_BYTES, then DECODE_REQ with the same bytes, then the buffer is cleared. -/
def complete (s : State) : State :=
  { emit (.decodeReq s.rxbuf) (emit (.readyBytes s.rxbuf) s) with rxbuf := [], rem := 0 }

/-- Steps 1 and 2, which exclude each other (R131, R135). -/
def takeDatagram (d : Bytes) (s : State) : State :=
  if 0 < s.rem.toInt then accumulate d s
  else if 0 < s.rxbuf.length then complete s
  else s

/-- Step 3 of the receiver, header recognition (R134). -/
def recognise (d : Bytes) (s : State) : State :=
  if d.length = Config.headerLen then
    match decodeHeader s.params.crc s.params.hdrOrder d with
    | .ok c => { s with rem := c, rxTs := s.now }
    | .error r => raise (.headerReject r d) s
  else s

/-- One inbound datagram, whole (R131): the enabling condition, the domain, then the three steps. -/
def receive (d : Bytes) (s : State) : Outcome :=
  if s.rxEnabled then
    match rxRefusal s d with
    | some r => .next (refuse r s)
    | none => .next (recognise d (takeDatagram d s))
  else .fault .rxDgramNoMove

end Sys2Proof.Machine
end

