-- ==== Sys2Proof/Machine/Configuration.lean ====
section
/-! DEFINITION. The host's configuration and query operations (44_config.md R150 to R157). Each may occur in any state. -/

namespace Sys2Proof.Machine

/-- SET_MSD (R150). An armed deadline is not moved (decision D17). -/
def execSetMsd (v : U16) (s : State) : Outcome := .next { s with msd := v }

/-- GET_MSD (R151). -/
def execGetMsd (s : State) : Outcome := .next (answer (.word s.msd) s)

/-- SET_MSS (R152). Every value is stored. -/
def execSetMss (v : U16) (s : State) : Outcome := .next { s with mss := v }

/-- GET_MSS (R153): the stored value, not the effective chunk size. -/
def execGetMss (s : State) : Outcome := .next (answer (.word s.mss) s)

/-- SET_DEST (R154). -/
def execSetDest (addr : Addr) (port : U16) (s : State) : Outcome :=
  .next { s with dest := .set ⟨addr, port⟩ }

/-- BIND (R155, R171). -/
def execBind (addr : Addr) (port : U16) (ok : Bool) (s : State) : Outcome :=
  let s' := { s with localEp := .set ⟨addr, port⟩, bound := ok }
  if ok then .next s' else .next (raise (.bindFailure ⟨addr, port⟩) s')

/-- IS_STREAMING (R157). -/
def execIsStreaming (s : State) : Outcome := .next (answer (.flag s.streaming) s)

end Sys2Proof.Machine
end

