-- ==== Sys2Proof/Machine/ErrorPath.lean ====
section
/-! DEFINITION. The error path: XPORT_ERROR (60_exceptions.md R173) and the command words of the two reserved OPs
(30_encoding.md R79). -/

namespace Sys2Proof.Machine

/-- XPORT_ERROR (R173): both buffers cleared, the write and the deferred task cancelled, REM ← −1, and TransportError raised. -/
def execXportError (info : U16) (s : State) : Outcome :=
  .next (raise (.transportError info)
    { s with txbuf := [], inflight := .none, pace := .idle, rxbuf := [], rem := narrow16 (-1) })

/-- A command word of OP 0x0 (R79): refused, whatever its other bits hold. -/
def execReserved0 (_x : BitVec 28) (s : State) : Outcome := .next (refuse .reservedCmd s)

/-- A command word of OP 0xF (R79): refused, whatever its other bits hold. -/
def execReservedF (_x : BitVec 28) (s : State) : Outcome := .next (refuse .reservedCmd s)

end Sys2Proof.Machine
end

