-- ==== Sys2Proof/Machine/Pacing.lean ====
section
/-! DEFINITION. The Pacing Scheduler's event PACE_FIRE (42_pacing.md R121) and the time base's TICK (44_config.md R158). The arm
itself is `paceArm` of Ops. -/

namespace Sys2Proof.Machine

/-- PACE_FIRE (R121): the next slice is issued and stays in TXBUF until its WRITE_DONE. -/
def execPaceFire (s : State) : Outcome :=
  if s.paceFireEnabled then .next (fireSlice s) else .fault .paceFireNoMove

/-- TICK (R158). -/
def execTick (t : U64) (s : State) : Outcome :=
  if s.tickEnabled t then .next { s with now := t } else .fault .tickNoMove

end Sys2Proof.Machine
end

