-- ==== Sys2Proof/Machine/PowerOn.lean ====
section
/-! DEFINITION. The power-on reset agent's event RESET (70_reset_and_hazards.md R200). -/

namespace Sys2Proof.Machine

/-- RESET (R200): every element of 10_state.md takes the value of R39. It emits nothing, and what the model keeps beside the
block's state (the parameters, the events to come, the outputs and refusal reasons so far, the free-value count) stays. -/
def execReset (s : State) : Outcome :=
  .next { State.powerOn s.params with
    pending := s.pending
    outputs := s.outputs
    refusals := s.refusals
    freeCount := s.freeCount }

end Sys2Proof.Machine
end

