-- ==== Sys2Proof/Machine/Receiver.lean ====
section
/-! DEFINITION. The Receiver Engine's operation RX_DGRAM (43_receiver.md R131), and the two wire formats as they arrive
(30_encoding.md R70, R73): all three are one inbound datagram, told apart by its length alone (R74). -/

namespace Sys2Proof.Machine

/-- RX_DGRAM (R131). -/
def execRxDgram (d : Bytes) (s : State) : Outcome := receive d s

/-- A header datagram arrives (R70): its four bytes in the link's byte order (R71) are one inbound datagram. -/
def execHeader (count checksum : U16) (s : State) : Outcome :=
  receive (headerBytes s.params.hdrOrder count checksum) s

/-- A data datagram arrives (R73). Its content plays no part in the classification (R74). -/
def execDataChunk (d : Bytes) (s : State) : Outcome := receive d s

end Sys2Proof.Machine
end

