-- ==== Sys2Proof/Machine/Sender.lean ====
section
/-! DEFINITION. The Sender Engine's operations (41_sender.md): SEND and WRITE_DONE. -/

namespace Sys2Proof.Machine

/-- The accepted path of SEND (R103): copy the data, latch the chunk size, issue the header that announces the chunk count. -/
def acceptSend (data : Bytes) (s : State) : State :=
  let n := chunkCount s.params.countMode data.length (chunkSize s.mss)
  issue (encodeHeader s.params.crc s.params.hdrOrder (narrow16 n)) .hdr
    { s with txbuf := data, chunk := narrow16 (chunkSize s.mss) }

/-- SEND (R103). The no-op test comes first, then the refusals of R102. -/
def execSend (data : Bytes) (s : State) : Outcome :=
  if data.length = 0 ∨ 0 < s.txbuf.length then .next (emit .sent s)
  else
    match sendRefusal s data with
    | some r => .next (refuse r s)
    | none => .next (acceptSend data s)

/-- WRITE_DONE (R105). -/
def execWriteDone (s : State) : Outcome :=
  if s.writeDoneEnabled then
    if (confirmWrite s).txbuf.length = 0 then .next (emit .sent (confirmWrite s))
    else .next (paceArm (confirmWrite s))
  else .fault .writeDoneNoMove

end Sys2Proof.Machine
end

