-- ==== Sys2Proof/Machine/Dispatch.lean ====
section
/-! DEFINITION. One arm per constructor of Instr, each one direct call of its meaning. -/

namespace Sys2Proof.Machine

def exec (i : Instr) (s : State) : Host.Outcome State Fault Refusal :=
  match i with
  | .reserved0 x => Sys2Proof.Machine.execReserved0 x s
  | .send data => Sys2Proof.Machine.execSend data s
  | .writeDone => Sys2Proof.Machine.execWriteDone s
  | .rxDgram data => Sys2Proof.Machine.execRxDgram data s
  | .xportError info => Sys2Proof.Machine.execXportError info s
  | .paceFire => Sys2Proof.Machine.execPaceFire s
  | .setMsd value => Sys2Proof.Machine.execSetMsd value s
  | .getMsd => Sys2Proof.Machine.execGetMsd s
  | .setMss value => Sys2Proof.Machine.execSetMss value s
  | .getMss => Sys2Proof.Machine.execGetMss s
  | .setDest addr port => Sys2Proof.Machine.execSetDest addr port s
  | .bind addr port ok => Sys2Proof.Machine.execBind addr port ok s
  | .isStreaming => Sys2Proof.Machine.execIsStreaming s
  | .tick t => Sys2Proof.Machine.execTick t s
  | .reset => Sys2Proof.Machine.execReset s
  | .reservedF x => Sys2Proof.Machine.execReservedF x s
  | .header count checksum => Sys2Proof.Machine.execHeader count checksum s
  | .dataChunk data => Sys2Proof.Machine.execDataChunk data s

end Sys2Proof.Machine
end

