-- ==== Sys2Proof/Machine/Fetch.lean ====
section
/-! DEFINITION. Taking the next input event and what becomes of one that names no instruction (30_encoding.md R79). -/

namespace Sys2Proof.Machine

/-- An input event whose word or operand the decoder rejects. The reserved words of R79 are refused before any operation's
semantics (60_exceptions.md R182). A word that came without its operand has no meaning in the spec (log entry 6). -/
def reject (r : DecodeReject) (s : State) : Outcome :=
  match r with
  | .rsvdNonzero => .next (refuse .reservedCmd s)
  | .flagNonzero => .next (refuse .reservedCmd s)
  | .immNonzero => .next (refuse .reservedCmd s)
  | .missingOperand => .fault .operandMissing

/-- The next input event is taken off the store. -/
def takeInput (rest : List Input) (s : State) : State := { s with pending := rest }

/-- An input event is put in front of the store. -/
def offerInput (i : Input) (s : State) : State := { s with pending := i :: s.pending }

end Sys2Proof.Machine
end

