-- ==== Sys2Proof/Machine/Step.lean ====
section
/-! DEFINITION. One step of the block is the complete handling of exactly one input event (00_scope.md R12). -/

namespace Sys2Proof.Machine

/-- The next input event is taken, decoded in the link's byte order, and handled. With no event to take, the block is idle and
holds all state (60_exceptions.md R191, 70_reset_and_hazards.md R201). -/
def step (s : State) : Host.Outcome State Fault Refusal :=
  match s.pending with
  | [] => .next s
  | i :: rest =>
    match decode s.params.hdrOrder i with
    | .ok instr => exec instr (takeInput rest s)
    | .error r => reject r (takeInput rest s)

/-- The event a table row's bits stand for becomes the next input event (log entry 1). -/
def State.withFetchWord (s : State) (nbits w : Nat) : State := offerInput (tableInput nbits w) s

end Sys2Proof.Machine
end

