-- ==== Sys2Proof/Machine/Run.lean ====
section
/-! DEFINITION. Runs: a sequence of instructions handled one after another (00_scope.md R12), and the schedule of 30_encoding.md
R82 that confirms each write and fires the scheduler at its deadline. -/

namespace Sys2Proof.Machine

/-- Go on from a next state; a stop stays a stop. -/
def andThen (o : Outcome) (f : State → Outcome) : Outcome :=
  match o with
  | .next s => f s
  | .fault r => .fault r
  | .refused r => .refused r

/-- The instructions handled in order, one step each. -/
def execAll : List Instr → State → Outcome
  | [], s => .next s
  | i :: is, s => andThen (exec i s) (execAll is)

/-! ### Runs of input events (70_reset_and_hazards.md R215) -/

/-- The input events handled in order, each as the next one of its step. -/
def runEvents : List Input → State → Outcome
  | [], s => .next s
  | e :: es, s => andThen (step (offerInput e s)) (runEvents es)

/-- Each event a run takes, with the state it is taken in, up to where the run stops. -/
def trace : List Input → State → List (State × Input)
  | [], _ => []
  | e :: es, s =>
    (s, e) :: match step (offerInput e s) with
      | .next t => trace es t
      | .fault _ => []
      | .refused _ => []

/-- The states of a run: the first, and the one after each event, up to where the run stops. -/
def runStates : List Input → State → List State
  | [], s => [s]
  | e :: es, s =>
    s :: match step (offerInput e s) with
      | .next t => runStates es t
      | .fault _ => []
      | .refused _ => []

/-- The instruction an event of a run stands for; none for a word the decoder rejects. -/
def tracedInstr (p : State × Input) : Option Instr :=
  match decode p.1.params.hdrOrder p.2 with
  | .ok i => some i
  | .error _ => none

/-! ### A schedule (30_encoding.md R82) -/

/-- WAITFIRE of R82: TICK max(NOW, d), then PACE_FIRE. Ill-formed (`none`) when PACE = IDLE. -/
def waitFire (s : State) : Option (List Instr) :=
  match s.pace with
  | .idle => none
  | .armed d => some [.tick (if s.now.toNat ≤ d.toNat then d else s.now), .paceFire]

/-- The write outstanding is confirmed, and if that arms the scheduler, it fires at its deadline. -/
def sendRound (s : State) : Outcome :=
  andThen (exec .writeDone s) fun s' =>
    match waitFire s' with
    | none => .next s'
    | some is => execAll is s'

/-- `n` such rounds. -/
def sendRounds : Nat → State → Outcome
  | 0, s => .next s
  | n + 1, s => andThen (sendRound s) (sendRounds n)

/-- The datagram of a TX output. -/
def txDatagram : Output → Option Bytes
  | .tx _ data => some data
  | .sent => none
  | .readyBytes _ => none
  | .decodeReq _ => none
  | .log _ => none
  | .ret _ => none

/-- The datagrams an output sequence hands to the transport, in order. -/
def txDatagrams (os : List Output) : List Bytes := os.filterMap txDatagram

/-- The outputs that `t` has beyond those of `s`. -/
def newOutputs (s t : State) : List Output := t.outputs.drop s.outputs.length

end Sys2Proof.Machine
end

