-- ==== Sys2Proof/Machine/Program.lean ====
section
/-! DEFINITION. The event programs of 30_encoding.md R81: the lines of a program as terms, and the input event each assembles to.
ProgramText.lean reads such terms from characters. -/

namespace Sys2Proof.Machine

/-- `data` of R81: explicit bytes, counting bytes from a start, or copies of one byte. -/
inductive DataExpr where
  | hex (bytes : Bytes)
  | inc (n : Nat) (start : Nat)
  | fill (n : Nat) (byte : Byte)
  deriving DecidableEq, Repr

/-- The bytes a data form stands for: byte i of `inc` is (start + i) mod 256. -/
def DataExpr.bytes : DataExpr → Bytes
  | .hex bs => bs
  | .inc n start => (List.range n).map fun i => BitVec.ofNat 8 (start + i)
  | .fill n b => List.replicate n b

/-- `event` of R81. -/
inductive Event where
  | reset
  | tick (t : U64)
  | setMsd (v : U16)
  | setMss (v : U16)
  | getMsd
  | getMss
  | isStreaming
  | setDest (addr : Addr) (port : U16)
  | bind (addr : Addr) (port : U16) (ok : Bool)
  | send (data : DataExpr)
  | rx (data : DataExpr)
  | writeDone
  | fire
  | xerr (info : U16)
  deriving DecidableEq, Repr

/-- The operation a line names (R81). -/
def Event.instr : Event → Instr
  | .reset => .reset
  | .tick t => .tick t
  | .setMsd v => .setMsd v
  | .setMss v => .setMss v
  | .getMsd => .getMsd
  | .getMss => .getMss
  | .isStreaming => .isStreaming
  | .setDest a p => .setDest a p
  | .bind a p ok => .bind a p ok
  | .send d => .send d.bytes
  | .rx d => .rxDgram d.bytes
  | .writeDone => .writeDone
  | .fire => .paceFire
  | .xerr info => .xportError info

/-- The command word and side-channel operand a line assembles to (R81). Every line is a command word, so the byte order of the
wire formats plays no part. -/
def Event.input (e : Event) : Input := encode .be e.instr

/-- A one-instance program from a start state: its lines are the input events to come. -/
def loadProgram (p : List Event) (s : State) : State := { s with pending := p.map Event.input }

end Sys2Proof.Machine
end

