-- ==== Sys2Proof/Machine/Link.lean ====
section
/-! DEFINITION. Two DGF instances joined by a transport (60_exceptions.md R189). They share no state. The transport holds the
datagrams each has issued and may deliver any of them, in any order, more than once, or never (20_memory.md R62). -/

namespace Sys2Proof.Machine

/-- The two ends of a link. -/
inductive Endpt where
  | a
  | b
  deriving DecidableEq, Repr

/-- The other end. -/
def Endpt.other : Endpt → Endpt
  | .a => .b
  | .b => .a

/-- A datagram the transport holds, and whether it has already reached its end as an RX_DGRAM. -/
structure Transit where
  data      : Bytes
  delivered : Bool
  deriving DecidableEq, Repr

/-- A datagram just issued. -/
def Transit.issued (data : Bytes) : Transit where
  data := data
  delivered := false

/-- A link: both instances, and the datagrams the transport still holds for each, oldest first. -/
structure Link where
  a   : State
  b   : State
  toA : List Transit
  toB : List Transit
  deriving DecidableEq, Repr

/-- The instance at an end. -/
def Link.at (l : Link) : Endpt → State
  | .a => l.a
  | .b => l.b

/-- The instance at an end takes another state. -/
def Link.setAt (l : Link) (e : Endpt) (s : State) : Link :=
  match e with
  | .a => { l with a := s }
  | .b => { l with b := s }

/-- The datagrams held for an end. -/
def Link.held (l : Link) : Endpt → List Transit
  | .a => l.toA
  | .b => l.toB

/-- A change of the datagrams held for an end. -/
def Link.mapHeld (l : Link) (e : Endpt) (f : List Transit → List Transit) : Link :=
  match e with
  | .a => { l with toA := f l.toA }
  | .b => { l with toB := f l.toB }

/-- What can happen on a link: an input event at one end, or a move of the transport. -/
inductive LinkEvent where
  | input (src : Endpt) (i : Input)
  /-- The n-th datagram held for an end arrives there as one RX_DGRAM. With `keep` the transport holds it still, and may
  deliver it again. -/
  | deliver (dst : Endpt) (n : Nat) (keep : Bool)
  /-- The n-th datagram held for an end is discarded. -/
  | lose (dst : Endpt) (n : Nat)
  deriving DecidableEq, Repr

/-- The command word of R78 for one inbound datagram. -/
def deliveryInput (d : Bytes) : Input := encode .be (.rxDgram d)

/-- One input event at one end. What that end issues goes to the transport, for the other end, bound or not. A datagram issued
while that end is unbound stays held: the transport may lose it, as 70_reset_and_hazards.md R203 item 4 has it, or deliver it
once the end has bound, which the spec does not say. DESIGN CHOICE, log entry 14. -/
def Link.inputAt (l : Link) (e : Endpt) (i : Input) : Host.Outcome Link Fault Refusal :=
  match step (offerInput i (l.at e)) with
  | .next s =>
    .next ((l.setAt e s).mapHeld e.other fun h => h ++ (txDatagrams (newOutputs (l.at e) s)).map Transit.issued)
  | .fault r => .fault r
  | .refused r => .refused r

/-- The n-th datagram held for an end is held no longer. -/
def Link.discard (l : Link) (e : Endpt) (n : Nat) : Link := l.mapHeld e fun h => h.eraseIdx n

/-- The n-th datagram held for an end is held still, and has reached it. -/
def Link.keepDelivered (l : Link) (e : Endpt) (n : Nat) : Link :=
  l.mapHeld e fun h => h.modify n fun d => { d with delivered := true }

/-- One event of a link. `none` where the transport holds no such datagram. -/
def Link.apply (l : Link) : LinkEvent → Option (Host.Outcome Link Fault Refusal)
  | .input e i => some (l.inputAt e i)
  | .deliver e n keep =>
    match (l.held e)[n]? with
    | none => none
    | some d => some ((if keep then l.keepDelivered e n else l.discard e n).inputAt e (deliveryInput d.data))
  | .lose e n =>
    match (l.held e)[n]? with
    | none => none
    | some _ => some (.next (l.discard e n))

/-- Where the oldest datagram not yet transferred to an end stands among those held for it. -/
def Link.oldest (l : Link) (dst : Endpt) : Option Nat := (l.held dst).findIdx? fun d => !d.delivered

/-! ### The harness forms of R82, for the sending end: `none` where there is no such datagram -/

/-- XFER: the oldest datagram of the sender not yet transferred arrives at the other end, then the write is confirmed. -/
def Link.xfer (l : Link) (src : Endpt) : Option (List LinkEvent) :=
  (l.oldest src.other).map fun n => [.deliver src.other n false, .input src (Event.input .writeDone)]

/-- DROP: the write is confirmed, and the oldest untransferred datagram is lost in transit. -/
def Link.dropDatagram (l : Link) (src : Endpt) : Option (List LinkEvent) :=
  (l.oldest src.other).map fun n => [.lose src.other n, .input src (Event.input .writeDone)]

/-- LOSE: the oldest untransferred datagram is discarded, and no confirmation follows. -/
def Link.loseDatagram (l : Link) (src : Endpt) : Option (List LinkEvent) :=
  (l.oldest src.other).map fun n => [.lose src.other n]

/-- WAITFIRE at an end: ill-formed (`none`) when PACE = IDLE there. -/
def Link.waitFireAt (l : Link) (e : Endpt) : Option (List LinkEvent) :=
  (waitFire (l.at e)).map fun is => is.map fun i => .input e (encode .be i)

/-- Link events in order, stopping at the first that cannot be taken. -/
def Link.applyAll : List LinkEvent → Link → Option (Host.Outcome Link Fault Refusal)
  | [], l => some (.next l)
  | e :: es, l =>
    match l.apply e with
    | none => none
    | some (.next l') => Link.applyAll es l'
    | some (.fault r) => some (.fault r)
    | some (.refused r) => some (.refused r)

/-- The links a run of link events passes through: the first, and the one after each event, up to where the run stops. -/
def Link.states : List LinkEvent → Link → List Link
  | [], l => [l]
  | e :: es, l =>
    l :: match l.apply e with
      | some (.next l') => Link.states es l'
      | some (.fault _) => []
      | some (.refused _) => []
      | none => []

end Sys2Proof.Machine
end

