-- ==== Sys2Proof/Safety.lean ====
section
/-! DEFINITION. The terms claims about runs are stated in: the launch premises of 70_reset_and_hazards.md R202, the end of a run
(R215, R216), the invariants of 10_state.md R40 to R44, and the chunks of a stream (41_sender.md R104). -/

namespace Sys2Proof.Machine

/-! ### Launch premises (R202) -/

/-- CLEAN: exactly the state of R200, for the run's parameters. What the model keeps beside the block's state is free. -/
def Clean (s : State) : Prop :=
  s = { State.powerOn s.params with
    pending := s.pending
    outputs := s.outputs
    refusals := s.refusals
    freeCount := s.freeCount }

/-- NO_REFUSAL: REFUSED = false in every state of the run. A RESET after a refusal does not mend it. -/
def NoRefusal (es : List Input) (s : State) : Prop := ∀ u ∈ runStates es s, u.refused = false

/-- Whether an instruction is a SEND. -/
def isSend : Instr → Bool
  | .send _ => true
  | _ => false

/-- Whether an instruction is the arrival of a datagram (30_encoding.md R74, R78). -/
def isDatagram : Instr → Bool
  | .rxDgram _ => true
  | .header _ _ => true
  | .dataChunk _ => true
  | _ => false

/-- The state a run is in when it takes the first event whose instruction answers to `kind`. -/
def stateAtFirst (kind : Instr → Bool) (es : List Input) (s : State) : Option State :=
  ((trace es s).find? fun p => (tracedInstr p).any kind).map Prod.fst

/-- DEST_SET(e): DEST = e before the first SEND of the run. `EndpointReg.set e` is never UNSET. -/
def DestSet (e : Endpoint) (es : List Input) (s : State) : Prop :=
  ∀ u, stateAtFirst isSend es s = some u → u.dest = .set e

/-- RX_READY(e): BOUND = true and LOCAL = e, as only a BIND with ok = true leaves them, before the first datagram of the run. -/
def RxReady (e : Endpoint) (es : List Input) (s : State) : Prop :=
  ∀ u, stateAtFirst isDatagram es s = some u → u.bound = true ∧ u.localEp = .set e

/-- NOTHING_IN_FLIGHT. -/
def NothingInFlight (s : State) : Prop := s.inflight = .none ∧ s.pace = .idle

/-- MODE(m, o) of one endpoint. -/
def Mode (m : CountMode) (o : HdrOrder) (s : State) : Prop :=
  s.params.countMode = m ∧ s.params.hdrOrder = o

/-- CLEAN of a link: both ends are, and the transport holds nothing. -/
def LinkClean (l : Link) : Prop := Clean l.a ∧ Clean l.b ∧ l.toA = [] ∧ l.toB = []

/-- NO_REFUSAL of a link's run: at both ends, in every state of the run. -/
def LinkNoRefusal (es : List LinkEvent) (l : Link) : Prop :=
  ∀ k ∈ Link.states es l, k.a.refused = false ∧ k.b.refused = false

/-- MODE(m, o), the same at both ends of a link. -/
def LinkMode (m : CountMode) (o : HdrOrder) (l : Link) : Prop := Mode m o l.a ∧ Mode m o l.b

/-! ### The end of a run -/

/-- A run at one endpoint is over: no write outstanding and no deadline armed (R215). -/
def Over (s : State) : Prop := s.inflight = .none ∧ s.pace = .idle

/-- A run of a link is over: both ends are, and every datagram A issued has been delivered to B or dropped, so that none the
transport still holds for B is undelivered (R216). -/
def LinkOver (l : Link) : Prop := Over l.a ∧ Over l.b ∧ ∀ d ∈ l.toB, d.delivered = true

/-! ### Invariants (10_state.md §8) -/

/-- R40: with TXBUF empty nothing is outstanding or armed; otherwise exactly one of the two is. -/
def SenderControl (s : State) : Prop :=
  (s.txbuf = [] → s.inflight = .none ∧ s.pace = .idle) ∧
  (s.txbuf ≠ [] →
    (s.inflight ≠ .none ∧ s.pace = .idle) ∨ (s.inflight = .none ∧ ∃ d, s.pace = .armed d))

/-- R41: the outstanding chunk is the front k bytes of TXBUF. -/
def ChunkInFlight (s : State) : Prop :=
  ∀ k, s.inflight = .chunk k →
    k = min s.chunk.toNat s.txbuf.length ∧ 1 ≤ k ∧ k ≤ s.chunk.toNat ∧ s.chunk.toNat ≤ 1400

/-- R42: while a stream runs, the latched chunk size is 1 to 1400. -/
def ChunkLatched (s : State) : Prop :=
  s.txbuf ≠ [] → 1 ≤ s.chunk.toNat ∧ s.chunk.toNat ≤ 1400

/-- R43: −1 ≤ REM ≤ 32767, and with REM = −1 nothing is held. -/
def ReceiverHeld (s : State) : Prop :=
  -1 ≤ s.rem.toInt ∧ s.rem.toInt ≤ 32767 ∧ (s.rem.toInt = -1 → s.rxbuf = [])

/-- R44: no timestamp lies in the future, and no deadline before the last issue. -/
def TimesOrdered (s : State) : Prop :=
  s.lastTx.toNat ≤ s.now.toNat ∧ s.rxTs.toNat ≤ s.now.toNat ∧
  ∀ d, s.pace = .armed d → s.lastTx.toNat ≤ d.toNat

/-- The invariants of 10_state.md §8 together. -/
structure Invariants (s : State) : Prop where
  sender   : SenderControl s
  inflight : ChunkInFlight s
  latch    : ChunkLatched s
  receiver : ReceiverHeld s
  times    : TimesOrdered s

/-- The time base has room for one more arm: NOW + MSD fits `u64`. D6: time does not wrap in a run. -/
def TimeHeadroom (s : State) : Prop := s.now.toNat + s.msd.toNat < u64Limit

/-! ### The chunks of a stream -/

/-- The number of chunks of L bytes, (L + cs − 1) div cs (R104). -/
def chunkTotal (len cs : Nat) : Nat := (len + cs - 1) / cs

/-- Chunk i is `data[i·cs : min((i+1)·cs, L)]` (R104). -/
def chunkAt (data : Bytes) (cs i : Nat) : Bytes := (data.drop (i * cs)).take cs

/-- The chunks of a stream, in order (R104). -/
def chunksOf (data : Bytes) (cs : Nat) : List Bytes :=
  (List.range (chunkTotal data.length cs)).map (chunkAt data cs)

/-- The bytes of TXBUF not yet issued: those behind the chunk in flight. -/
def unissued (s : State) : Bytes := s.txbuf.drop s.inflight.confirmedLength

/-- The conditions under which SEND(data) is accepted (R102, R103). -/
def Accepts (s : State) (data : Bytes) : Prop :=
  data ≠ [] ∧ s.txbuf = [] ∧ s.mss.toNat ≠ 0 ∧
  chunkCount s.params.countMode data.length (min 1400 s.mss.toNat) ≤ 32767 ∧
  ∀ cap, s.params.bufCap = some cap → data.length ≤ cap

/-- The instructions that end a stream or begin one: XPORT_ERROR, RESET and SEND. -/
def breaksStream : Instr → Bool
  | .send _ => true
  | .xportError _ => true
  | .reset => true
  | _ => false

/-- The three ways one datagram reaches the receiver: RX_DGRAM, and the two wire formats (30_encoding.md R70, R73, R74). -/
def Delivers (i : Instr) (o : HdrOrder) (d : Bytes) : Prop :=
  i = .rxDgram d ∨ i = .dataChunk d ∨ ∃ c k, i = .header c k ∧ d = headerBytes o c k

end Sys2Proof.Machine
end

