-- ==== Sys2Proof/WellFormed.lean ====
section
/-! DEFINITION. When a term of `Instr` is an instruction that some input event of the block stands for, and is that event's one
spelling. The widths of 30_encoding.md R76 are in the types; what is left is the length of a data datagram. -/

namespace Sys2Proof

/-- A data datagram has 0 to MAX_PAYLOAD bytes on the inbound side (R73). A 4-byte datagram is spelled `header`: the receiver
tells the two formats apart by length alone (R74), and the wire has no other mark (R75). -/
def Instr.wellFormed : Instr → Bool
  | .reserved0 _ => true
  | .send _ => true
  | .writeDone => true
  | .rxDgram _ => true
  | .xportError _ => true
  | .paceFire => true
  | .setMsd _ => true
  | .getMsd => true
  | .setMss _ => true
  | .getMss => true
  | .setDest _ _ => true
  | .bind _ _ _ => true
  | .isStreaming => true
  | .tick _ => true
  | .reset => true
  | .reservedF _ => true
  | .header _ _ => true
  | .dataChunk d => decide (d.length ≤ Config.maxPayload) && decide (d.length ≠ Config.headerLen)

end Sys2Proof
end

