-- ==== Sys2Proof/Certificates/Slice0/Obligations.lean ====
section
/-! DEFINITION. The statements for the provers, in the order of OBLIGATIONS.json. Each docstring names the rule of spec/ it
formalises. -/

open Sys2Proof Sys2Proof.Machine

/-! ### Encoding -/

/-- The words of 95_test_vectors.md §6.1, a word of each reserved OP (§7.2) and the wire datagrams of §2.2, each written out, decode
to the instruction they stand for (R76, R77, R78, R79, R71). -/
def Obligations.WrittenWordsDecode : Prop :=
  decode .be (.command 0x00000000 .none) = .ok (.reserved0 0) ∧
  decode .be (.command 0x10000000 (.data [0x00, 0x01, 0x02])) = .ok (.send [0x00, 0x01, 0x02]) ∧
  decode .be (.command 0x20000000 .none) = .ok .writeDone ∧
  decode .be (.command 0x30000000 (.data [0x00, 0x01, 0x1E, 0xCE])) = .ok (.rxDgram [0x00, 0x01, 0x1E, 0xCE]) ∧
  decode .be (.command 0x40000007 .none) = .ok (.xportError 7) ∧
  decode .be (.command 0x50000000 .none) = .ok .paceFire ∧
  decode .be (.command 0x60000005 .none) = .ok (.setMsd 5) ∧
  decode .be (.command 0x70000000 .none) = .ok .getMsd ∧
  decode .be (.command 0x80000578 .none) = .ok (.setMss 1400) ∧
  decode .be (.command 0x90000000 .none) = .ok .getMss ∧
  decode .be (.command 0xA0002328 (.addr ⟨1⟩)) = .ok (.setDest ⟨1⟩ 9000) ∧
  decode .be (.command 0xB0012328 (.addr ⟨0⟩)) = .ok (.bind ⟨0⟩ 9000 true) ∧
  decode .be (.command 0xB0002328 (.addr ⟨0⟩)) = .ok (.bind ⟨0⟩ 9000 false) ∧
  decode .be (.command 0xC0000000 .none) = .ok .isStreaming ∧
  decode .be (.command 0xD0000000 (.time 17)) = .ok (.tick 17) ∧
  decode .be (.command 0xE0000000 .none) = .ok .reset ∧
  decode .be (.command 0xF0000000 .none) = .ok (.reservedF 0) ∧
  decode .be (.wire [0x00, 0x01, 0x1E, 0xCE]) = .ok (.header 1 0x1ECE) ∧
  decode .le (.wire [0x01, 0x00, 0x9F, 0x16]) = .ok (.header 1 0x169F) ∧
  decode .be (.wire [0xAA, 0xBB, 0xCC]) = .ok (.dataChunk [0xAA, 0xBB, 0xCC])

/-- Decode undoes encode, for every well-formed instruction with every operand, in either byte order (R71, R76 to R78). -/
def Obligations.DecodeUndoesEncode : Prop :=
  ∀ (o : HdrOrder) (i : Instr), i.wellFormed = true → decode o (encode o i) = .ok i

/-- R79: the reserved and illegal command words are refused with REF_RESERVED_CMD and have no other effect, and a side-channel
operand supplied with an OP that takes none is ignored. (The list of reasons is the model's own record, log entry 5.) -/
def Obligations.ReservedWordsRefused : Prop :=
  (∀ (s : State) (w : Word) (side : Side) (rest : List Input), s.pending = .command w side :: rest →
    (w.extractLsb' 28 4 = 0x0 ∨ w.extractLsb' 28 4 = 0xF ∨ w.extractLsb' 17 11 ≠ 0 ∨
      (w.getLsbD 16 = true ∧ w.extractLsb' 28 4 ≠ 0xB) ∨
      (w.extractLsb' 0 16 ≠ 0 ∧
        w.extractLsb' 28 4 ∈ ([0x1, 0x2, 0x3, 0x5, 0x7, 0x9, 0xC, 0xD, 0xE] : List (BitVec 4)))) →
    step s = .next { s with pending := rest, refused := true, refusals := s.refusals ++ [.reservedCmd] }) ∧
  (∀ (o : HdrOrder) (w : Word) (side : Side),
    w.extractLsb' 28 4 ∈ ([0x2, 0x4, 0x5, 0x6, 0x7, 0x8, 0x9, 0xC, 0xE] : List (BitVec 4)) →
    decode o (.command w side) = decode o (.command w .none))

/-- R71: the bytes of a header on the wire, in either byte order. -/
def Obligations.HeaderWireLayout : Prop :=
  ∀ c k : U16,
    encode .be (.header c k) =
      .wire [(c >>> 8).setWidth 8, c.setWidth 8, (k >>> 8).setWidth 8, k.setWidth 8] ∧
    encode .le (.header c k) =
      .wire [c.setWidth 8, (c >>> 8).setWidth 8, k.setWidth 8, (k >>> 8).setWidth 8]

/-- R74, R75: an inbound datagram is classified by its length alone. Four bytes are a header candidate whatever they hold, and
the candidate's fields hold all four; any other length is data. -/
def Obligations.DatagramClassifiedByLength : Prop :=
  ∀ (o : HdrOrder) (d : Bytes),
    (d.length = 4 → ∃ c k, decode o (.wire d) = .ok (.header c k) ∧ encode o (.header c k) = .wire d) ∧
    (d.length ≠ 4 → decode o (.wire d) = .ok (.dataChunk d))

/-! ### The step -/

/-- R12: a step takes exactly the next input event and handles it. What stands behind it is left for later steps. (That the events
to come stand in a list is the model's choice, log entry 1.) -/
def Obligations.StepRunsDecodedInstruction : Prop :=
  ∀ (s : State) (e : Input) (rest : List Input) (i : Instr),
    s.pending = e :: rest → decode s.params.hdrOrder e = .ok i →
    step s = exec i { s with pending := rest }

/-- R191, R201: with no input event the block is idle and holds all state. (That the machine then steps to itself is the model's
choice, log entry 1.) -/
def Obligations.StepIdlesWithoutInput : Prop :=
  ∀ s : State, s.pending = [] → step s = .next s

/-! ### Header Codec -/

/-- R90: the check value over the ASCII bytes "123456789", and the values of 95_test_vectors.md §2.1. -/
def Obligations.ChecksumCheckValues : Prop :=
  crc16 .x25 [0x31, 0x32, 0x33, 0x34, 0x35, 0x36, 0x37, 0x38, 0x39] = 0x906E ∧
  crc16 .x25 [] = 0x0000 ∧ crc16 .x25 [0x00] = 0xF078 ∧ crc16 .x25 [0x00, 0x00] = 0x0F47 ∧
  crc16 .x25 [0x00, 0x01] = 0x1ECE ∧ crc16 .x25 [0x01, 0x00] = 0x169F ∧ crc16 .x25 [0xFF, 0xFF] = 0xFFFF

/-- R91: ENCODE lays out the count, then the checksum of the two count bytes as they stand, both in the link's byte order. -/
def Obligations.EncodeLaysOutCountThenChecksum : Prop :=
  ∀ (alg : CrcAlg) (c : S16),
    (∀ k, k = crc16 alg [(c >>> 8).setWidth 8, c.setWidth 8] →
      encodeHeader alg .be c = [(c >>> 8).setWidth 8, c.setWidth 8, (k >>> 8).setWidth 8, k.setWidth 8]) ∧
    (∀ k, k = crc16 alg [c.setWidth 8, (c >>> 8).setWidth 8] →
      encodeHeader alg .le c = [c.setWidth 8, (c >>> 8).setWidth 8, k.setWidth 8, (k >>> 8).setWidth 8])

/-- R92 on a datagram with count field c and checksum field k: the checksum is tested before the sign. -/
def Obligations.DecodeTestsChecksumThenSign : Prop :=
  ∀ (alg : CrcAlg) (o : HdrOrder) (c k : U16),
    (k ≠ crc16 alg ((headerBytes o c k).take 2) →
      decodeHeader alg o (headerBytes o c k) = .error .crcMismatch) ∧
    (k = crc16 alg ((headerBytes o c k).take 2) → c.toInt ≤ 0 →
      decodeHeader alg o (headerBytes o c k) = .error .nonpositive) ∧
    (k = crc16 alg ((headerBytes o c k).take 2) → 0 < c.toInt →
      decodeHeader alg o (headerBytes o c k) = .ok c)

/-- R93: every count in [1, 32767] survives ENCODE and DECODE, in either byte order and under every total CRC16. -/
def Obligations.HeaderRoundTrip : Prop :=
  ∀ (alg : CrcAlg) (o : HdrOrder) (c : S16), 1 ≤ c.toInt → c.toInt ≤ 32767 →
    decodeHeader alg o (encodeHeader alg o c) = .ok c

/-- R94: under the R90 parameters, flipping any one of the 32 bits of ENCODE(c) gives a word DECODE rejects. -/
def Obligations.SingleBitFlipRejected : Prop :=
  ∀ (o : HdrOrder) (c : S16) (byte bit : Nat), 1 ≤ c.toInt → c.toInt ≤ 32767 → byte < 4 → bit < 8 →
    ∃ r, decodeHeader .x25 o
      ((encodeHeader .x25 o c).modify byte fun b => b ^^^ (1#8 <<< bit)) = .error r

/-- R95: the four-byte words DECODE accepts are exactly the encodings of the counts 1 to 32767. -/
def Obligations.AcceptedHeadersAreEncodings : Prop :=
  ∀ (alg : CrcAlg) (o : HdrOrder) (d : Bytes) (c : S16), d.length = 4 →
    (decodeHeader alg o d = .ok c ↔ 1 ≤ c.toInt ∧ d = encodeHeader alg o c)

/-- R212: a header passes the other byte order's checksum test exactly when its two checksum bytes are equal. -/
def Obligations.MixedOrderChecksumTest : Prop :=
  ∀ (alg : CrcAlg) (c : S16),
    (decodeHeader alg .le (encodeHeader alg .be c) ≠ .error .crcMismatch ↔
      (encodeHeader alg .be c)[2]? = (encodeHeader alg .be c)[3]?) ∧
    (decodeHeader alg .be (encodeHeader alg .le c) ≠ .error .crcMismatch ↔
      (encodeHeader alg .le c)[2]? = (encodeHeader alg .le c)[3]?)

/-! ### Sender Engine -/

/-- R103, R100: an accepted SEND copies the data, latches min(1400, MSS), issues the header that announces the chunk count of
R101, and times it. Nothing else changes. -/
def Obligations.AcceptedSendIssuesHeader : Prop :=
  ∀ (s : State) (data : Bytes), Accepts s data →
    exec (.send data) s = .next { s with
      txbuf := data
      chunk := BitVec.ofNat 16 (min 1400 s.mss.toNat)
      inflight := .hdr
      lastTx := s.now
      outputs := s.outputs ++ [.tx s.dest (encodeHeader s.params.crc s.params.hdrOrder
        (BitVec.ofNat 16 (chunkCount s.params.countMode data.length (min 1400 s.mss.toNat))))] }

/-- R103, R204: a SEND of no bytes, or while streaming, changes nothing and emits SENT at once. -/
def Obligations.DroppedSendOnlyEmitsSent : Prop :=
  ∀ (s : State) (data : Bytes), data = [] ∨ s.txbuf ≠ [] →
    exec (.send data) s = .next { s with outputs := s.outputs ++ [.sent] }

/-- R102: the three refusals of a SEND that passes the no-op test, in their order, with no effect other than the mark. (The list of
reasons is the model's own record, log entry 5.) -/
def Obligations.SendRefusedInOrder : Prop :=
  ∀ (s : State) (data : Bytes), data ≠ [] → s.txbuf = [] →
    (s.mss = 0 →
      exec (.send data) s = .next { s with refused := true, refusals := s.refusals ++ [.zeroChunk] }) ∧
    (s.mss ≠ 0 → 32767 < chunkCount s.params.countMode data.length (min 1400 s.mss.toNat) →
      exec (.send data) s = .next { s with refused := true, refusals := s.refusals ++ [.countRange] }) ∧
    (s.mss ≠ 0 → chunkCount s.params.countMode data.length (min 1400 s.mss.toNat) ≤ 32767 →
      ∀ cap, s.params.bufCap = some cap → cap < data.length →
      exec (.send data) s = .next { s with refused := true, refusals := s.refusals ++ [.bufferCap] })

/-- R101, R107: CEIL announces the number of chunks sent; NEAREST announces one fewer exactly when the last chunk is shorter than
half a chunk, and never more. -/
def Obligations.NearestUnderCountsByOne : Prop :=
  ∀ len cs : Nat, 1 ≤ len → 1 ≤ cs →
    chunkCount .ceil len cs = chunkTotal len cs ∧
    (0 < len % cs ∧ 2 * (len % cs) < cs → chunkCount .nearest len cs + 1 = chunkTotal len cs) ∧
    (len % cs = 0 ∨ cs ≤ 2 * (len % cs) → chunkCount .nearest len cs = chunkTotal len cs)

/-- R105, R120: WRITE_DONE. The confirmed chunk leaves TXBUF, a header's confirmation removes nothing, and nothing is outstanding.
An emptied TXBUF emits SENT; otherwise PACE is armed at max(NOW, LAST_TX + MSD), for a deadline that fits the time base. With
nothing outstanding there is no move, which the model answers with a fault (log entry 9). -/
def Obligations.WriteDoneConfirmsAndArms : Prop :=
  ∀ s : State,
    (s.inflight = .none → exec .writeDone s = .fault .writeDoneNoMove) ∧
    ∀ left : Bytes,
      (s.inflight = .hdr ∧ left = s.txbuf ∨ ∃ k, s.inflight = .chunk k ∧ left = s.txbuf.drop k) →
      (left = [] →
        exec .writeDone s = .next { s with txbuf := [], inflight := .none, outputs := s.outputs ++ [.sent] }) ∧
      (left ≠ [] → max s.now.toNat (s.lastTx.toNat + s.msd.toNat) < 2 ^ 64 →
        exec .writeDone s = .next { s with
          txbuf := left
          inflight := .none
          pace := .armed (BitVec.ofNat 64 (max s.now.toNat (s.lastTx.toNat + s.msd.toNat))) })

/-- The model's choice (log entry 8): a deadline that does not fit the u64 of PACE is the free value freeDeadline freeCount, of which
nothing is known, raised to NOW (R120) and to the last issue (R44) where it is below them. The rest of WRITE_DONE happens as R105 says, for a header and for a chunk in flight. -/
def Obligations.DeadlineBeyondTimeBaseIsFree : Prop :=
  ∀ (s : State) (left : Bytes),
    (s.inflight = .hdr ∧ left = s.txbuf ∨ ∃ k, s.inflight = .chunk k ∧ left = s.txbuf.drop k) → left ≠ [] →
    2 ^ 64 ≤ max s.now.toNat (s.lastTx.toNat + s.msd.toNat) →
    exec .writeDone s = .next { s with
      txbuf := left
      inflight := .none
      pace := .armed (BitVec.ofNat 64
        (max (max s.now.toNat s.lastTx.toNat) (Config.freeDeadline s.freeCount).toNat))
      freeCount := s.freeCount + 1 }

/-- R121: PACE_FIRE at or after its deadline issues the next slice to the current DEST and leaves TXBUF as it is. While
PACE = IDLE, or NOW is below the deadline, it has no move, which the model answers with a fault (log entry 9). -/
def Obligations.PaceFireIssuesNextSlice : Prop :=
  ∀ s : State,
    (∀ d, s.pace = .armed d → d.toNat ≤ s.now.toNat →
      exec .paceFire s = .next { s with
        inflight := .chunk (min s.chunk.toNat s.txbuf.length)
        lastTx := s.now
        pace := .idle
        outputs := s.outputs ++ [.tx s.dest (s.txbuf.take (min s.chunk.toNat s.txbuf.length))] }) ∧
    (s.pace = .idle → exec .paceFire s = .fault .paceFireNoMove) ∧
    (∀ d, s.pace = .armed d → s.now.toNat < d.toNat → exec .paceFire s = .fault .paceFireNoMove)

/-- R104, R52: no step but SEND, XPORT_ERROR and RESET loses, adds or reorders payload bytes. The bytes it issues, followed by
those still unissued after it, are those unissued before it. -/
def Obligations.IssuedBytesConserved : Prop :=
  ∀ (i : Instr) (s t : State), SenderControl s → breaksStream i = false → exec i s = .next t →
    (txDatagrams (newOutputs s t)).flatten ++ unissued t = unissued s

/-- R104, R108: under every schedule in which no XPORT_ERROR, RESET or further SEND intervenes, once TXBUF is empty an accepted
SEND has issued exactly the header and then the chunks of R104 in order, of a run that ends with REFUSED = false (R178). -/
def Obligations.StreamIsHeaderThenChunks : Prop :=
  ∀ (s t : State) (data : Bytes) (is : List Instr), Accepts s data → SenderControl s →
    (∀ i ∈ is, breaksStream i = false) →
    execAll (.send data :: is) s = .next t → t.txbuf = [] → t.refused = false →
    txDatagrams (newOutputs s t) =
      encodeHeader s.params.crc s.params.hdrOrder
        (BitVec.ofNat 16 (chunkCount s.params.countMode data.length (min 1400 s.mss.toNat))) ::
      chunksOf data (min 1400 s.mss.toNat)

/-- R104, R106: an accepted SEND does complete. When each write is confirmed and the scheduler fires at its deadline, m + 1 rounds
for m chunks emit the header, the chunks and one SENT and leave the sender idle, with REFUSED = false to the end (R178). -/
def Obligations.AcceptedStreamCompletes : Prop :=
  ∀ (s : State) (data : Bytes), Accepts s data → SenderControl s → s.refused = false →
    s.now.toNat + (chunkTotal data.length (min 1400 s.mss.toNat) + 1) * s.msd.toNat < 2 ^ 64 →
    ∃ t, andThen (exec (.send data) s) (sendRounds (chunkTotal data.length (min 1400 s.mss.toNat) + 1)) = .next t ∧
      t.txbuf = [] ∧ Over t ∧ t.refused = false ∧
      newOutputs s t =
        (encodeHeader s.params.crc s.params.hdrOrder
            (BitVec.ofNat 16 (chunkCount s.params.countMode data.length (min 1400 s.mss.toNat))) ::
          chunksOf data (min 1400 s.mss.toNat)).map (Output.tx s.dest) ++ [.sent]

/-- R106: a step emits at most one SENT, and only a no-op SEND or the WRITE_DONE that leaves TXBUF empty emits it. -/
def Obligations.SentOnlyFromDropOrLastWrite : Prop :=
  ∀ (i : Instr) (s t : State), exec i s = .next t →
    (newOutputs s t).count .sent ≤ 1 ∧
    (.sent ∈ newOutputs s t →
      (∃ data, i = .send data ∧ (data = [] ∨ s.txbuf ≠ []) ∧ t = { s with outputs := s.outputs ++ [.sent] }) ∨
      (i = .writeDone ∧ t.txbuf = []))

/-! ### Pacing Scheduler -/

/-- R123: once enabled, PACE_FIRE stays enabled until it is taken or XPORT_ERROR or RESET cancels it. -/
def Obligations.PaceFireStaysEnabled : Prop :=
  ∀ (i : Instr) (s t : State) (d : U64), SenderControl s → s.pace = .armed d → d.toNat ≤ s.now.toNat →
    exec i s = .next t → i ≠ .paceFire → (∀ info, i ≠ .xportError info) → i ≠ .reset →
    t.pace = .armed d ∧ d.toNat ≤ t.now.toNat

/-- R125: PACE returns to IDLE only by PACE_FIRE, XPORT_ERROR or RESET. -/
def Obligations.PaceIdleOnlyByThree : Prop :=
  ∀ (i : Instr) (s t : State) (d : U64), exec i s = .next t → s.pace = .armed d → t.pace = .idle →
    i = .paceFire ∨ (∃ info, i = .xportError info) ∨ i = .reset

/-- R124: the deferred task blocks nothing. Whether an event other than PACE_FIRE is handled does not depend on PACE. -/
def Obligations.ArmedTaskBlocksNothing : Prop :=
  ∀ (i : Instr) (s : State) (p : Pace), i ≠ .paceFire →
    ((∃ t, exec i { s with pace := p } = .next t) ↔ ∃ t, exec i s = .next t)

/-- R122: two consecutive datagrams of one stream are issued at least MSD apart, MSD as it was at the arm between them, whatever
happens between the arm and the firing, of a run that ends with REFUSED = false (R178). D6: the time base does not run out. -/
def Obligations.ConsecutiveDatagramsSpaced : Prop :=
  ∀ (s a b t : State) (is : List Instr), SenderControl s → s.lastTx.toNat ≤ s.now.toNat → TimeHeadroom s →
    exec .writeDone s = .next a → a.txbuf ≠ [] →
    execAll is a = .next b →
    (∀ i ∈ is, i ≠ .paceFire ∧ i ≠ .reset ∧ ∀ info, i ≠ .xportError info) →
    exec .paceFire b = .next t → t.refused = false →
    a.lastTx = s.lastTx ∧ b.lastTx = s.lastTx ∧ s.lastTx.toNat + s.msd.toNat ≤ t.lastTx.toNat

/-- R158: TICK(t) sets NOW, and only NOW, for t ≥ NOW. For t < NOW it has no move, which the model answers with a
fault (log entry 9). -/
def Obligations.TickSetsNow : Prop :=
  ∀ (s : State) (t : U64),
    (s.now.toNat ≤ t.toNat → exec (.tick t) s = .next { s with now := t }) ∧
    (t.toNat < s.now.toNat → exec (.tick t) s = .fault .tickNoMove)

/-- R35: NOW never decreases, but for RESET, and only TICK and RESET write it. -/
def Obligations.TimeNeverRunsBack : Prop :=
  ∀ (i : Instr) (s t : State), exec i s = .next t → i ≠ .reset →
    s.now.toNat ≤ t.now.toNat ∧ ((∀ u, i ≠ .tick u) → t.now = s.now)

/-! ### Receiver Engine -/

/-- R141: the complete transition table of the receiver, for each of the three ways a datagram is delivered. IDLE is REM ≤ 0 with
RXBUF empty, DONE_PENDING is REM = 0 with RXBUF non-empty, ACCUM(r) is REM = r > 0. -/
def Obligations.ReceiverTransitionTable : Prop :=
  ∀ (s : State) (i : Instr) (d : Bytes), s.bound = true → Delivers i s.params.hdrOrder d → d.length ≤ 1400 →
    (∀ cap, s.params.bufCap = some cap → 0 < s.rem.toInt → s.rxbuf.length + d.length ≤ cap) →
    (s.rem.toInt ≤ 0 → s.rxbuf = [] →
      (d.length ≠ 4 → exec i s = .next s) ∧
      (∀ c, d.length = 4 → decodeHeader s.params.crc s.params.hdrOrder d = .ok c →
        exec i s = .next { s with rem := c, rxTs := s.now }) ∧
      (∀ r, d.length = 4 → decodeHeader s.params.crc s.params.hdrOrder d = .error r →
        exec i s = .next { s with outputs := s.outputs ++ [.log (.headerReject r d)] })) ∧
    (s.rem = 0 → s.rxbuf ≠ [] →
      (d.length ≠ 4 → exec i s = .next { s with
        rxbuf := [], outputs := s.outputs ++ [.readyBytes s.rxbuf, .decodeReq s.rxbuf] }) ∧
      (∀ c, d.length = 4 → decodeHeader s.params.crc s.params.hdrOrder d = .ok c →
        exec i s = .next { s with
          rem := c, rxTs := s.now
          rxbuf := [], outputs := s.outputs ++ [.readyBytes s.rxbuf, .decodeReq s.rxbuf] }) ∧
      (∀ r, d.length = 4 → decodeHeader s.params.crc s.params.hdrOrder d = .error r →
        exec i s = .next { s with
          rxbuf := []
          outputs := s.outputs ++ [.readyBytes s.rxbuf, .decodeReq s.rxbuf, .log (.headerReject r d)] })) ∧
    (0 < s.rem.toInt →
      (d.length ≠ 4 → exec i s = .next { s with
        rem := BitVec.ofInt 16 (s.rem.toInt - 1), rxbuf := s.rxbuf ++ d, rxTs := s.now }) ∧
      (∀ c, d.length = 4 → decodeHeader s.params.crc s.params.hdrOrder d = .ok c →
        exec i s = .next { s with rem := c, rxbuf := s.rxbuf ++ d, rxTs := s.now }) ∧
      (∀ r, d.length = 4 → decodeHeader s.params.crc s.params.hdrOrder d = .error r →
        exec i s = .next { s with
          rem := BitVec.ofInt 16 (s.rem.toInt - 1), rxbuf := s.rxbuf ++ d, rxTs := s.now
          outputs := s.outputs ++ [.log (.headerReject r d)] }))

/-- R131, R51, R182: a datagram over 1400 bytes is refused, and then one that a finite BUF_CAP cannot take while accumulating,
with no effect other than the mark. (The list of reasons is the model's own record, log entry 5.) -/
def Obligations.InboundDatagramRefused : Prop :=
  ∀ (s : State) (i : Instr) (d : Bytes), s.bound = true → Delivers i s.params.hdrOrder d →
    (1400 < d.length →
      exec i s = .next { s with refused := true, refusals := s.refusals ++ [.rxOversize] }) ∧
    (∀ cap, d.length ≤ 1400 → s.params.bufCap = some cap → 0 < s.rem.toInt → cap < s.rxbuf.length + d.length →
      exec i s = .next { s with refused := true, refusals := s.refusals ++ [.bufferCap] })

/-- R187: the three environment duties. An event that breaks one has no step, which the model answers with a fault
(log entry 9). -/
def Obligations.EnvironmentDutiesHaveNoMove : Prop :=
  ∀ s : State,
    (s.inflight = .none → exec .writeDone s = .fault .writeDoneNoMove) ∧
    (∀ i d, Delivers i s.params.hdrOrder d → s.bound = false → exec i s = .fault .rxDgramNoMove) ∧
    (∀ t : U64, t.toNat < s.now.toNat → exec (.tick t) s = .fault .tickNoMove)

/-- R183, R187: every event but WRITE_DONE, PACE_FIRE, TICK and the arrival of a datagram has a move in every state. -/
def Obligations.OtherEventsAlwaysMove : Prop :=
  ∀ (i : Instr) (s : State), i ≠ .writeDone → i ≠ .paceFire → (∀ t, i ≠ .tick t) →
    (∀ d, ¬ Delivers i s.params.hdrOrder d) → ∃ t, exec i s = .next t

/-- R132, R140: a receiver that expects r chunks and gets r datagrams, none of four bytes, holds them in arrival order and is no
longer accumulating. It has emitted nothing (R138), and REFUSED = false stands to the end (R178). -/
def Obligations.ExpectedDatagramsAssemble : Prop :=
  ∀ (s : State) (ds : List Bytes), s.bound = true → s.refused = false →
    (∀ cap, s.params.bufCap = some cap → s.rxbuf.length + ds.flatten.length ≤ cap) →
    s.rem.toInt = ds.length → (∀ d ∈ ds, d.length ≤ 1400 ∧ d.length ≠ 4) →
    ∃ t, execAll (ds.map .rxDgram) s = .next t ∧ t.rem = 0 ∧ t.rxbuf = s.rxbuf ++ ds.flatten ∧
      t.outputs = s.outputs ∧ t.refused = false

/-- R210, R93, R104: over a transport that delivers every datagram once and in order, a stream accepted under CEIL and run to its
end under any schedule is reassembled whole by a receiver with the same parameters, unless a chunk has four bytes (R208). Both runs end
with REFUSED = false (R178). -/
def Obligations.LosslessLinkReassembles : Prop :=
  ∀ (a a' b : State) (data : Bytes) (is : List Instr), Accepts a data → SenderControl a →
    a.params.countMode = .ceil → (∀ i ∈ is, breaksStream i = false) →
    execAll (.send data :: is) a = .next a' → a'.txbuf = [] → a'.refused = false →
    (∀ d ∈ chunksOf data (min 1400 a.mss.toNat), d.length ≠ 4) →
    b.bound = true → (∀ cap, b.params.bufCap = some cap → data.length ≤ cap) →
    b.params.crc = a.params.crc → b.params.hdrOrder = a.params.hdrOrder →
    b.rem.toInt ≤ 0 → b.rxbuf = [] → b.refused = false →
    ∃ b', execAll ((txDatagrams (newOutputs a a')).map .rxDgram) b = .next b' ∧
      b'.rem = 0 ∧ b'.rxbuf = data ∧ b'.outputs = b.outputs ∧ b'.refused = false

/-- R138: bytes are handed out only when a datagram arrives at a receiver that is not accumulating and holds bytes, and they are
exactly the bytes held. -/
def Obligations.ReadyBytesOnlyWhenPending : Prop :=
  ∀ (i : Instr) (s t : State) (bytes : Bytes), exec i s = .next t → .readyBytes bytes ∈ newOutputs s t →
    s.rem.toInt ≤ 0 ∧ s.rxbuf ≠ [] ∧ bytes = s.rxbuf ∧ t.rxbuf = [] ∧ ∃ d, Delivers i s.params.hdrOrder d

/-! ### Configuration and queries -/

/-- R150: SET_MSD stores every value, and an armed deadline does not move. -/
def Obligations.SetMsdStoresValue : Prop :=
  ∀ (s : State) (v : U16), exec (.setMsd v) s = .next { s with msd := v }

/-- R152: SET_MSS stores every value, and the chunk size of a stream in progress does not change. -/
def Obligations.SetMssStoresValue : Prop :=
  ∀ (s : State) (v : U16), exec (.setMss v) s = .next { s with mss := v }

/-- R154: SET_DEST stores the endpoint as given. -/
def Obligations.SetDestStoresEndpoint : Prop :=
  ∀ (s : State) (a : Addr) (port : U16), exec (.setDest a port) s = .next { s with dest := .set ⟨a, port⟩ }

/-- R151, R153, R157: the queries return MSD, MSS and whether TXBUF is non-empty, and change nothing. -/
def Obligations.QueriesReturnStatus : Prop :=
  ∀ s : State,
    exec .getMsd s = .next { s with outputs := s.outputs ++ [.ret (.word s.msd)] } ∧
    exec .getMss s = .next { s with outputs := s.outputs ++ [.ret (.word s.mss)] } ∧
    exec .isStreaming s = .next { s with outputs := s.outputs ++ [.ret (.flag (!s.txbuf.isEmpty))] }

/-- R151, R153: GET_MSD and GET_MSS return the last value stored, whatever else happened since, in a run that ends with
REFUSED = false (R178). -/
def Obligations.ConfigReadsBackLastWrite : Prop :=
  ∀ (s t : State) (v : U16) (is : List Instr),
    ((∀ i ∈ is, i ≠ .reset ∧ ∀ w, i ≠ .setMsd w) → execAll (.setMsd v :: is) s = .next t → t.refused = false →
      exec .getMsd t = .next { t with outputs := t.outputs ++ [.ret (.word v)] }) ∧
    ((∀ i ∈ is, i ≠ .reset ∧ ∀ w, i ≠ .setMss w) → execAll (.setMss v :: is) s = .next t → t.refused = false →
      exec .getMss t = .next { t with outputs := t.outputs ++ [.ret (.word v)] })

/-- R155, R171: BIND records the endpoint and the transport's verdict; a failure is logged with the requested endpoint. -/
def Obligations.BindRecordsVerdict : Prop :=
  ∀ (s : State) (a : Addr) (port : U16),
    exec (.bind a port true) s = .next { s with localEp := .set ⟨a, port⟩, bound := true } ∧
    exec (.bind a port false) s = .next { s with
      localEp := .set ⟨a, port⟩
      bound := false
      outputs := s.outputs ++ [.log (.bindFailure ⟨a, port⟩)] }

/-! ### Errors, refusals, reset -/

/-- R173: XPORT_ERROR clears both engines' buffers, the outstanding write and the deferred task, sets REM to −1, and logs. It
changes nothing else. -/
def Obligations.TransportErrorClearsBothEngines : Prop :=
  ∀ (s : State) (info : U16), exec (.xportError info) s = .next { s with
    txbuf := []
    inflight := .none
    pace := .idle
    rxbuf := []
    rem := BitVec.ofInt 16 (-1)
    outputs := s.outputs ++ [.log (.transportError info)] }

/-- R170: the LOG codes of the four conditions. -/
def Obligations.LogCodesOfConditions : Prop :=
  ∀ (e : Endpoint) (d : Bytes) (info : U16),
    (ErrorCond.bindFailure e).code = 0x01 ∧ (ErrorCond.headerReject .crcMismatch d).code = 0x02 ∧
    (ErrorCond.headerReject .nonpositive d).code = 0x03 ∧ (ErrorCond.transportError info).code = 0x04

/-- R79: the two reserved OPs are refused in every state, whatever their other 28 bits hold. (The list of reasons is the model's own
record, log entry 5.) -/
def Obligations.ReservedOpsRefused : Prop :=
  ∀ (s : State) (x : BitVec 28),
    exec (.reserved0 x) s = .next { s with refused := true, refusals := s.refusals ++ [.reservedCmd] } ∧
    exec (.reservedF x) s = .next { s with refused := true, refusals := s.refusals ++ [.reservedCmd] }

/-- R178: a refused step sets REFUSED and changes nothing else and emits nothing; REFUSED is set by nothing else and stays until
RESET. (The reasons are the model's own record, log entry 5.) -/
def Obligations.RefusalOnlySetsMark : Prop :=
  ∀ (i : Instr) (s t : State), exec i s = .next t →
    ((∃ r, t = { s with refused := true, refusals := s.refusals ++ [r] }) ∨
      (t.refusals = s.refusals ∧ (i ≠ .reset → t.refused = s.refused))) ∧
    (i = .reset → t.refused = false)

/-- R178, R202: a run without a RESET has NO_REFUSAL exactly when it ends with REFUSED = false. With a RESET, which clears the mark,
it has it exactly when it starts with REFUSED = false and records no reason (the record is the model's own, log entry 5). -/
def Obligations.NoRefusalReadOffAtTheEnd : Prop :=
  ∀ (es : List Input) (s t : State), runEvents es s = .next t →
    ((∀ p ∈ trace es s, tracedInstr p ≠ some .reset) → (NoRefusal es s ↔ t.refused = false)) ∧
    (NoRefusal es s ↔ s.refused = false ∧ t.refusals = s.refusals)

/-- R202, R203: from a clean state without a RESET, DEST_SET means that no datagram is issued to UNSET; and without a failing BIND
too, RX_READY means that no datagram arrives at an unbound endpoint. -/
def Obligations.LaunchPremisesSuffice : Prop :=
  ∀ (es : List Input) (s : State) (e : Endpoint), Clean s → NoRefusal es s →
    (∀ p ∈ trace es s, tracedInstr p ≠ some .reset) →
    (DestSet e es s → ∀ t, runEvents es s = .next t → ∀ data, .tx .unset data ∉ newOutputs s t) ∧
    ((∀ p ∈ trace es s, ∀ a port, tracedInstr p ≠ some (.bind a port false)) → RxReady e es s →
      runEvents es s ≠ .fault .rxDgramNoMove)

/-- R200, R39: RESET puts every element of the block's state at its reset value, whatever the state was, and emits nothing. -/
def Obligations.ResetSetsEveryElement : Prop :=
  ∀ s : State, exec .reset s = .next { s with
    msd := 1
    mss := s.params.mssReset
    dest := .unset
    localEp := .unset
    bound := false
    txbuf := []
    chunk := 0
    inflight := .none
    lastTx := 0
    pace := .idle
    rem := s.params.remReset.value
    rxbuf := []
    rxTs := 0
    now := 0
    refused := false }

/-- R39: the machine right after reset, under the default parameters of R7. -/
def Obligations.ResetStateValues : Prop :=
  State.reset.msd = 1 ∧ State.reset.mss = 1400 ∧ State.reset.dest = .unset ∧ State.reset.localEp = .unset ∧
  State.reset.bound = false ∧ State.reset.txbuf = [] ∧ State.reset.chunk = 0 ∧ State.reset.inflight = .none ∧
  State.reset.lastTx = 0 ∧ State.reset.pace = .idle ∧ State.reset.rem = 0 ∧ State.reset.rxbuf = [] ∧
  State.reset.rxTs = 0 ∧ State.reset.now = 0 ∧ State.reset.refused = false

/-! ### Whole-machine rules -/

/-- R40 to R44 hold at reset, and in every clean state, in which nothing is in flight (R202). -/
def Obligations.ResetMeetsInvariants : Prop :=
  Invariants State.reset ∧ ∀ s : State, Clean s → Invariants s ∧ NothingInFlight s

/-- R40 to R44: from every state that meets the invariants, every step gives a state that meets them. (That R44 holds also of a
deadline beyond the time base, which the rules do not state, is the model's choice, log entry 8.) -/
def Obligations.StepKeepsInvariants : Prop :=
  ∀ s t : State, Invariants s → step s = .next t → Invariants t

/-- R20 with R22 to R36: each element is written only by the operations its rule names. -/
def Obligations.ElementsWrittenOnlyByTheirOperations : Prop :=
  ∀ (i : Instr) (s t : State), exec i s = .next t → i ≠ .reset →
    ((∀ v, i ≠ .setMsd v) → t.msd = s.msd) ∧
    ((∀ v, i ≠ .setMss v) → t.mss = s.mss) ∧
    ((∀ a p, i ≠ .setDest a p) → t.dest = s.dest) ∧
    ((∀ a p ok, i ≠ .bind a p ok) → t.localEp = s.localEp ∧ t.bound = s.bound) ∧
    ((∀ d, i ≠ .send d) → t.chunk = s.chunk) ∧
    ((∀ d, i ≠ .send d) → i ≠ .writeDone → (∀ e, i ≠ .xportError e) → t.txbuf = s.txbuf) ∧
    ((∀ d, i ≠ .send d) → i ≠ .paceFire → t.lastTx = s.lastTx) ∧
    ((∀ d, i ≠ .send d) → i ≠ .paceFire → i ≠ .writeDone → (∀ e, i ≠ .xportError e) → t.inflight = s.inflight) ∧
    (i ≠ .paceFire → i ≠ .writeDone → (∀ e, i ≠ .xportError e) → t.pace = s.pace) ∧
    ((∀ d, ¬ Delivers i s.params.hdrOrder d) → (∀ e, i ≠ .xportError e) → t.rem = s.rem ∧ t.rxbuf = s.rxbuf) ∧
    ((∀ d, ¬ Delivers i s.params.hdrOrder d) → t.rxTs = s.rxTs) ∧
    ((∀ u, i ≠ .tick u) → t.now = s.now)

/-- R67: no sender operation reads or writes the receiver's elements, and no datagram's arrival reads or writes the sender's:
with those elements changed beforehand the step goes the same way and leaves the changed values standing. Only XPORT_ERROR and
RESET write both sides. -/
def Obligations.EnginesOwnTheirState : Prop :=
  ∀ (i : Instr) (s t : State), exec i s = .next t →
    ((∃ d, i = .send d) ∨ i = .writeDone ∨ i = .paceFire →
      ∀ (r : S16) (b : Bytes) (x : U64),
        exec i { s with rem := r, rxbuf := b, rxTs := x } = .next { t with rem := r, rxbuf := b, rxTs := x }) ∧
    ((∃ d, Delivers i s.params.hdrOrder d) →
      ∀ (b : Bytes) (w : Inflight) (p : Pace) (c : U16) (l : U64),
        exec i { s with txbuf := b, inflight := w, pace := p, chunk := c, lastTx := l } =
          .next { t with txbuf := b, inflight := w, pace := p, chunk := c, lastTx := l }) ∧
    (t.txbuf ≠ s.txbuf ∨ t.inflight ≠ s.inflight ∨ t.pace ≠ s.pace ∨ t.chunk ≠ s.chunk ∨ t.lastTx ≠ s.lastTx →
      t.rem ≠ s.rem ∨ t.rxbuf ≠ s.rxbuf →
      (∃ e, i = .xportError e) ∨ i = .reset)

/-- R61: the outputs form one sequence. No step takes back or reorders what was emitted before it. -/
def Obligations.OutputsOnlyAppended : Prop :=
  ∀ s t : State, step s = .next t → ∃ os, t.outputs = s.outputs ++ os

/-- R45: no operation switches a parameter. So MODE, the same at both ends of a link, holds along its run (R202). -/
def Obligations.ParametersNeverChange : Prop :=
  (∀ s t : State, step s = .next t → t.params = s.params) ∧
  ∀ (m : CountMode) (o : HdrOrder) (l l' : Link) (ev : LinkEvent),
    LinkMode m o l → l.apply ev = some (.next l') → LinkMode m o l'

/-- R215 with R40: a run at one endpoint is over exactly when TXBUF is empty. R216: a run of a link is over exactly when both are
and no datagram issued to B is still held undelivered. -/
def Obligations.OverExactlyWhenNothingToSend : Prop :=
  (∀ s : State, SenderControl s → (Over s ↔ s.txbuf = [])) ∧
  ∀ l : Link, SenderControl l.a → SenderControl l.b →
    (LinkOver l ↔ l.a.txbuf = [] ∧ l.b.txbuf = [] ∧ l.oldest .b = none)

/-- R189, R62: the ends of a link share no state and interact only through datagrams. An input event at one end leaves the other
end, and the datagrams held for the end itself, alone. A delivery is one RX_DGRAM at its end of a datagram held for it, which
is then held no longer, or held as delivered; a loss changes no state. (That the transport holds all an end issues for the
other end, whatever DEST was and bound or not, and remembers what it delivered, is the model's choice, log entry 14.) -/
def Obligations.LinkEndsShareNoState : Prop :=
  ∀ l l' : Link,
    (∀ (e : Endpt) (i : Input), l.apply (.input e i) = some (.next l') →
      step (offerInput i (l.at e)) = .next (l'.at e) ∧ l'.at e.other = l.at e.other ∧ l'.held e = l.held e ∧
      l'.held e.other = l.held e.other ++
        (txDatagrams (newOutputs (l.at e) (l'.at e))).map fun d => { data := d, delivered := false }) ∧
    (∀ (e : Endpt) (n : Nat) (keep : Bool), l.apply (.deliver e n keep) = some (.next l') →
      ∃ d, (l.held e)[n]? = some d ∧ exec (.rxDgram d.data) (l.at e) = .next (l'.at e) ∧
        l'.at e.other = l.at e.other ∧ l'.held e.other = l.held e.other ∧
        l'.held e = if keep then (l.held e).set n { data := d.data, delivered := true } else (l.held e).eraseIdx n) ∧
    (∀ (e : Endpt) (n : Nat), l.apply (.lose e n) = some (.next l') →
      n < (l.held e).length ∧ l'.a = l.a ∧ l'.b = l.b ∧ l'.held e.other = l.held e.other ∧
      l'.held e = (l.held e).eraseIdx n)
end

