-- ==== Sys2Proof/Laws/Codec.lean ====
section
/-! SUPPORT. Small facts about the wire fields (30_encoding.md R71), the codec (40_header_codec.md) and the checksum's bit
steps (R90). -/

namespace Sys2Proof

theorem hi_append_lo (v : U16) : v.extractLsb' 8 8 ++ v.extractLsb' 0 8 = (v : BitVec (8 + 8)) := by
  ext i hi
  simp only [BitVec.getElem_append, BitVec.getElem_extractLsb']
  split
  · simp [BitVec.getLsbD_eq_getElem (show i < 16 by omega)]
  · rw [show 8 + (i - 8) = i by omega]
    simp [BitVec.getLsbD_eq_getElem (show i < 16 by omega)]

theorem extract_hi_append (a b : Byte) : (a ++ b : BitVec (8 + 8)).extractLsb' 8 8 = a := by
  ext i hi
  rw [BitVec.getElem_extractLsb', BitVec.getLsbD_append, if_neg (by omega), Nat.add_sub_cancel_left,
    BitVec.getLsbD_eq_getElem hi]

theorem extract_lo_append (a b : Byte) : (a ++ b : BitVec (8 + 8)).extractLsb' 0 8 = b := by
  ext i hi
  rw [BitVec.getElem_extractLsb', BitVec.getLsbD_append, if_pos (by omega), Nat.zero_add,
    BitVec.getLsbD_eq_getElem hi]

/-- The two wire bytes of a field. -/
theorem fieldBytes_eq (o : HdrOrder) (v : U16) : ∃ a b, fieldBytes o v = [a, b] ∧ fieldOf o a b = v := by
  cases o
  · exact ⟨_, _, rfl, hi_append_lo v⟩
  · exact ⟨_, _, rfl, hi_append_lo v⟩

/-- Two wire bytes are the bytes of the field they hold. -/
theorem fieldBytes_fieldOf (o : HdrOrder) (a b : Byte) : fieldBytes o (fieldOf o a b) = [a, b] := by
  cases o
  · simp only [fieldBytes, fieldOf, extract_hi_append, extract_lo_append]
  · simp only [fieldBytes, fieldOf, extract_hi_append, extract_lo_append]

@[simp] theorem fieldBytes_length (o : HdrOrder) (v : U16) : (fieldBytes o v).length = 2 := by cases o <;> rfl

@[simp] theorem headerBytes_length (o : HdrOrder) (c k : U16) : (headerBytes o c k).length = 4 := by
  simp [headerBytes]

/-- A datagram is a header candidate exactly when it has four bytes (R74). -/
theorem decodeDatagram_of_four (o : HdrOrder) (b0 b1 b2 b3 : Byte) :
    decodeDatagram o [b0, b1, b2, b3] = .header (fieldOf o b0 b1) (fieldOf o b2 b3) := rfl

theorem decodeDatagram_of_ne (o : HdrOrder) {d : Bytes} (h : d.length ≠ 4) : decodeDatagram o d = .dataChunk d := by
  unfold decodeDatagram
  split
  · exact absurd rfl h
  · rfl

namespace Machine

/-- The bit step of R90 is linear over XOR. -/
theorem crcBit_xor (a b : U16) : crcBit (a ^^^ b) = crcBit a ^^^ crcBit b := by
  unfold crcBit
  rw [BitVec.getLsbD_xor, BitVec.ushiftRight_xor_distrib]
  cases a.getLsbD 0 <;> cases b.getLsbD 0 <;> simp only [Bool.xor_false, Bool.xor_true, Bool.not_false, Bool.not_true,
    if_true, Bool.false_eq_true, if_false]
  · ac_rfl
  · ac_rfl
  · generalize (0x8408 : U16) = p
    rw [show a >>> 1 ^^^ p ^^^ (b >>> 1 ^^^ p) = a >>> 1 ^^^ b >>> 1 ^^^ (p ^^^ p) by ac_rfl, BitVec.xor_self,
      BitVec.xor_zero]

/-- So are any number of bit steps. -/
theorem crcBits_xor (n : Nat) (a b : U16) : crcBits n (a ^^^ b) = crcBits n a ^^^ crcBits n b := by
  induction n generalizing a b with
  | zero => rfl
  | succ n ih => simp only [crcBits, crcBit_xor, ih]

/-- Changing a byte by e changes the checksum register by the bit steps of e. -/
theorem crcByte_xor (r : U16) (b e : Byte) : crcByte r (b ^^^ e) = crcByte r b ^^^ crcBits 8 (e.setWidth 16) := by
  rw [crcByte, BitVec.setWidth_xor, ← BitVec.xor_assoc, crcBits_xor, crcByte]

/-- The same, for a change that reached the register before the byte. -/
theorem crcByte_xor_left (r d : U16) (b : Byte) : crcByte (r ^^^ d) b = crcByte r b ^^^ crcBits 8 d := by
  rw [crcByte, show r ^^^ d ^^^ b.setWidth 16 = r ^^^ b.setWidth 16 ^^^ d by ac_rfl, crcBits_xor, crcByte]

/-- DECODE on a datagram with count field c and checksum field k (R92). -/
theorem decodeHeader_headerBytes (alg : CrcAlg) (o : HdrOrder) (c k : U16) :
    decodeHeader alg o (headerBytes o c k) =
      if crc16 alg (fieldBytes o c) ≠ k then .error .crcMismatch
      else if c.toInt ≤ 0 then .error .nonpositive
      else .ok c := by
  obtain ⟨a, b, hc, hc'⟩ := fieldBytes_eq o c
  obtain ⟨x, y, hk, hk'⟩ := fieldBytes_eq o k
  simp only [headerBytes, hc, hk, List.cons_append, List.nil_append, decodeHeader, hc', hk']

/-- When four bytes pass DECODE's checksum test (R92). -/
theorem decodeHeader_ne_crcMismatch (alg : CrcAlg) (o : HdrOrder) (b0 b1 b2 b3 : Byte) :
    decodeHeader alg o [b0, b1, b2, b3] ≠ .error .crcMismatch ↔ crc16 alg [b0, b1] = fieldOf o b2 b3 := by
  unfold decodeHeader
  by_cases h : crc16 alg [b0, b1] = fieldOf o b2 b3
  · simp only [h, ne_eq, not_true_eq_false, if_false, iff_true]
    split <;> simp
  · simp [h]

end Machine

end Sys2Proof
end

