-- ==== Sys2Proof/Laws/Decode.lean ====
section
/-! SUPPORT. The fields of an encoded command word read back as they were put in (30_encoding.md R76, R78). -/

namespace Sys2Proof

@[simp] theorem Op.ofCode_code (op : Op) : Op.ofCode op.code = op := by cases op <;> rfl

@[simp] theorem Op.code_ofCode (c : BitVec 4) : (Op.ofCode c).code = c := by
  revert c
  decide

/-- An OP field names an operation exactly when it holds its code (R78). -/
theorem Op.ofCode_eq_iff (c : BitVec 4) (op : Op) : Op.ofCode c = op ↔ c = op.code :=
  ⟨fun h => by rw [← h, Op.code_ofCode], fun h => by rw [h, Op.ofCode_code]⟩

@[simp] theorem opField_commandWord (op : Op) (f : Bool) (imm : U16) : opField (commandWord op f imm) = op.code := by
  ext i hi
  simp only [opField, commandWord, BitVec.getElem_extractLsb', BitVec.getLsbD_append]
  rw [if_neg (by omega), show 28 + i - (11 + (1 + 16)) = i by omega, BitVec.getLsbD_eq_getElem hi]

@[simp] theorem rsvdField_commandWord (op : Op) (f : Bool) (imm : U16) : rsvdField (commandWord op f imm) = 0 := by
  ext i hi
  simp only [rsvdField, commandWord, BitVec.getElem_extractLsb', BitVec.getLsbD_append]
  rw [if_pos (by omega), if_neg (by omega)]
  simp

@[simp] theorem flagField_commandWord (op : Op) (f : Bool) (imm : U16) : flagField (commandWord op f imm) = f := by
  simp only [flagField, commandWord, BitVec.getLsbD_append]
  rw [if_pos (by omega), if_pos (by omega), if_neg (by omega)]
  cases f <;> rfl

@[simp] theorem immField_commandWord (op : Op) (f : Bool) (imm : U16) : immField (commandWord op f imm) = imm := by
  ext i hi
  simp only [immField, commandWord, BitVec.getElem_extractLsb', BitVec.getLsbD_append]
  rw [if_pos (by omega), if_pos (by omega), if_pos (by omega), Nat.zero_add, BitVec.getLsbD_eq_getElem hi]

@[simp] theorem opField_reservedWord (op : Op) (x : BitVec 28) : opField (reservedWord op x) = op.code := by
  ext i hi
  simp only [opField, reservedWord, BitVec.getElem_extractLsb', BitVec.getLsbD_append]
  rw [if_neg (by omega), show 28 + i - 28 = i by omega, BitVec.getLsbD_eq_getElem hi]

@[simp] theorem free_reservedWord (op : Op) (x : BitVec 28) : (reservedWord op x).extractLsb' 0 28 = x := by
  ext i hi
  simp only [reservedWord, BitVec.getElem_extractLsb', BitVec.getLsbD_append]
  rw [if_pos (by omega), Nat.zero_add, BitVec.getLsbD_eq_getElem hi]

/-- A word that passes R79's tests decodes by operand assembly. -/
theorem decodeCommand_commandWord (op : Op) (f : Bool) (imm : U16) (side : Side)
    (h0 : op ≠ .reserved0) (hF : op ≠ .reservedF) (hf : f = true → op = .bind)
    (hi : imm ≠ 0 → op.takesImm = true) :
    decodeCommand (commandWord op f imm) side = assemble op (commandWord op f imm) side := by
  have ht : reservedTest op (commandWord op f imm) = none := by
    unfold reservedTest
    rw [rsvdField_commandWord, flagField_commandWord, immField_commandWord, if_neg (by simp), if_neg, if_neg]
    · rintro ⟨hn, ht⟩
      simp [hi hn] at ht
    · rintro ⟨hft, hb⟩
      exact hb (hf hft)
  simp only [decodeCommand, opField_commandWord, Op.ofCode_code, h0, hF, or_self, if_false, ht]

end Sys2Proof
end

