-- ==== Sys2Proof/Laws/State.lean ====
section
/-! SUPPORT. One lemma per field of State and update: what each shared operation writes, and that it leaves the other fields
alone. All are true by unfolding, so that no later proof unfolds a record update. -/

namespace Sys2Proof.Machine

/-! ### emit -/

@[simp] theorem emit_msd (o : Output) (s : State) : (emit o s).msd = s.msd := rfl
@[simp] theorem emit_mss (o : Output) (s : State) : (emit o s).mss = s.mss := rfl
@[simp] theorem emit_dest (o : Output) (s : State) : (emit o s).dest = s.dest := rfl
@[simp] theorem emit_localEp (o : Output) (s : State) : (emit o s).localEp = s.localEp := rfl
@[simp] theorem emit_bound (o : Output) (s : State) : (emit o s).bound = s.bound := rfl
@[simp] theorem emit_txbuf (o : Output) (s : State) : (emit o s).txbuf = s.txbuf := rfl
@[simp] theorem emit_chunk (o : Output) (s : State) : (emit o s).chunk = s.chunk := rfl
@[simp] theorem emit_inflight (o : Output) (s : State) : (emit o s).inflight = s.inflight := rfl
@[simp] theorem emit_lastTx (o : Output) (s : State) : (emit o s).lastTx = s.lastTx := rfl
@[simp] theorem emit_pace (o : Output) (s : State) : (emit o s).pace = s.pace := rfl
@[simp] theorem emit_rem (o : Output) (s : State) : (emit o s).rem = s.rem := rfl
@[simp] theorem emit_rxbuf (o : Output) (s : State) : (emit o s).rxbuf = s.rxbuf := rfl
@[simp] theorem emit_rxTs (o : Output) (s : State) : (emit o s).rxTs = s.rxTs := rfl
@[simp] theorem emit_now (o : Output) (s : State) : (emit o s).now = s.now := rfl
@[simp] theorem emit_refused (o : Output) (s : State) : (emit o s).refused = s.refused := rfl
@[simp] theorem emit_params (o : Output) (s : State) : (emit o s).params = s.params := rfl
@[simp] theorem emit_pending (o : Output) (s : State) : (emit o s).pending = s.pending := rfl
@[simp] theorem emit_outputs (o : Output) (s : State) : (emit o s).outputs = s.outputs ++ [o] := rfl
@[simp] theorem emit_refusals (o : Output) (s : State) : (emit o s).refusals = s.refusals := rfl
@[simp] theorem emit_freeCount (o : Output) (s : State) : (emit o s).freeCount = s.freeCount := rfl

/-! ### raise -/

@[simp] theorem raise_msd (c : ErrorCond) (s : State) : (raise c s).msd = s.msd := rfl
@[simp] theorem raise_mss (c : ErrorCond) (s : State) : (raise c s).mss = s.mss := rfl
@[simp] theorem raise_dest (c : ErrorCond) (s : State) : (raise c s).dest = s.dest := rfl
@[simp] theorem raise_localEp (c : ErrorCond) (s : State) : (raise c s).localEp = s.localEp := rfl
@[simp] theorem raise_bound (c : ErrorCond) (s : State) : (raise c s).bound = s.bound := rfl
@[simp] theorem raise_txbuf (c : ErrorCond) (s : State) : (raise c s).txbuf = s.txbuf := rfl
@[simp] theorem raise_chunk (c : ErrorCond) (s : State) : (raise c s).chunk = s.chunk := rfl
@[simp] theorem raise_inflight (c : ErrorCond) (s : State) : (raise c s).inflight = s.inflight := rfl
@[simp] theorem raise_lastTx (c : ErrorCond) (s : State) : (raise c s).lastTx = s.lastTx := rfl
@[simp] theorem raise_pace (c : ErrorCond) (s : State) : (raise c s).pace = s.pace := rfl
@[simp] theorem raise_rem (c : ErrorCond) (s : State) : (raise c s).rem = s.rem := rfl
@[simp] theorem raise_rxbuf (c : ErrorCond) (s : State) : (raise c s).rxbuf = s.rxbuf := rfl
@[simp] theorem raise_rxTs (c : ErrorCond) (s : State) : (raise c s).rxTs = s.rxTs := rfl
@[simp] theorem raise_now (c : ErrorCond) (s : State) : (raise c s).now = s.now := rfl
@[simp] theorem raise_refused (c : ErrorCond) (s : State) : (raise c s).refused = s.refused := rfl
@[simp] theorem raise_params (c : ErrorCond) (s : State) : (raise c s).params = s.params := rfl
@[simp] theorem raise_pending (c : ErrorCond) (s : State) : (raise c s).pending = s.pending := rfl
@[simp] theorem raise_outputs (c : ErrorCond) (s : State) : (raise c s).outputs = s.outputs ++ [.log c] := rfl
@[simp] theorem raise_refusals (c : ErrorCond) (s : State) : (raise c s).refusals = s.refusals := rfl
@[simp] theorem raise_freeCount (c : ErrorCond) (s : State) : (raise c s).freeCount = s.freeCount := rfl

/-! ### answer -/

@[simp] theorem answer_msd (v : RetVal) (s : State) : (answer v s).msd = s.msd := rfl
@[simp] theorem answer_mss (v : RetVal) (s : State) : (answer v s).mss = s.mss := rfl
@[simp] theorem answer_dest (v : RetVal) (s : State) : (answer v s).dest = s.dest := rfl
@[simp] theorem answer_localEp (v : RetVal) (s : State) : (answer v s).localEp = s.localEp := rfl
@[simp] theorem answer_bound (v : RetVal) (s : State) : (answer v s).bound = s.bound := rfl
@[simp] theorem answer_txbuf (v : RetVal) (s : State) : (answer v s).txbuf = s.txbuf := rfl
@[simp] theorem answer_chunk (v : RetVal) (s : State) : (answer v s).chunk = s.chunk := rfl
@[simp] theorem answer_inflight (v : RetVal) (s : State) : (answer v s).inflight = s.inflight := rfl
@[simp] theorem answer_lastTx (v : RetVal) (s : State) : (answer v s).lastTx = s.lastTx := rfl
@[simp] theorem answer_pace (v : RetVal) (s : State) : (answer v s).pace = s.pace := rfl
@[simp] theorem answer_rem (v : RetVal) (s : State) : (answer v s).rem = s.rem := rfl
@[simp] theorem answer_rxbuf (v : RetVal) (s : State) : (answer v s).rxbuf = s.rxbuf := rfl
@[simp] theorem answer_rxTs (v : RetVal) (s : State) : (answer v s).rxTs = s.rxTs := rfl
@[simp] theorem answer_now (v : RetVal) (s : State) : (answer v s).now = s.now := rfl
@[simp] theorem answer_refused (v : RetVal) (s : State) : (answer v s).refused = s.refused := rfl
@[simp] theorem answer_params (v : RetVal) (s : State) : (answer v s).params = s.params := rfl
@[simp] theorem answer_pending (v : RetVal) (s : State) : (answer v s).pending = s.pending := rfl
@[simp] theorem answer_outputs (v : RetVal) (s : State) : (answer v s).outputs = s.outputs ++ [.ret v] := rfl
@[simp] theorem answer_refusals (v : RetVal) (s : State) : (answer v s).refusals = s.refusals := rfl
@[simp] theorem answer_freeCount (v : RetVal) (s : State) : (answer v s).freeCount = s.freeCount := rfl

/-! ### refuse -/

@[simp] theorem refuse_msd (r : RefuseReason) (s : State) : (refuse r s).msd = s.msd := rfl
@[simp] theorem refuse_mss (r : RefuseReason) (s : State) : (refuse r s).mss = s.mss := rfl
@[simp] theorem refuse_dest (r : RefuseReason) (s : State) : (refuse r s).dest = s.dest := rfl
@[simp] theorem refuse_localEp (r : RefuseReason) (s : State) : (refuse r s).localEp = s.localEp := rfl
@[simp] theorem refuse_bound (r : RefuseReason) (s : State) : (refuse r s).bound = s.bound := rfl
@[simp] theorem refuse_txbuf (r : RefuseReason) (s : State) : (refuse r s).txbuf = s.txbuf := rfl
@[simp] theorem refuse_chunk (r : RefuseReason) (s : State) : (refuse r s).chunk = s.chunk := rfl
@[simp] theorem refuse_inflight (r : RefuseReason) (s : State) : (refuse r s).inflight = s.inflight := rfl
@[simp] theorem refuse_lastTx (r : RefuseReason) (s : State) : (refuse r s).lastTx = s.lastTx := rfl
@[simp] theorem refuse_pace (r : RefuseReason) (s : State) : (refuse r s).pace = s.pace := rfl
@[simp] theorem refuse_rem (r : RefuseReason) (s : State) : (refuse r s).rem = s.rem := rfl
@[simp] theorem refuse_rxbuf (r : RefuseReason) (s : State) : (refuse r s).rxbuf = s.rxbuf := rfl
@[simp] theorem refuse_rxTs (r : RefuseReason) (s : State) : (refuse r s).rxTs = s.rxTs := rfl
@[simp] theorem refuse_now (r : RefuseReason) (s : State) : (refuse r s).now = s.now := rfl
@[simp] theorem refuse_refused (r : RefuseReason) (s : State) : (refuse r s).refused = true := rfl
@[simp] theorem refuse_params (r : RefuseReason) (s : State) : (refuse r s).params = s.params := rfl
@[simp] theorem refuse_pending (r : RefuseReason) (s : State) : (refuse r s).pending = s.pending := rfl
@[simp] theorem refuse_outputs (r : RefuseReason) (s : State) : (refuse r s).outputs = s.outputs := rfl
@[simp] theorem refuse_refusals (r : RefuseReason) (s : State) : (refuse r s).refusals = s.refusals ++ [r] := rfl
@[simp] theorem refuse_freeCount (r : RefuseReason) (s : State) : (refuse r s).freeCount = s.freeCount := rfl

/-! ### issue -/

@[simp] theorem issue_msd (d : Bytes) (w : Inflight) (s : State) : (issue d w s).msd = s.msd := rfl
@[simp] theorem issue_mss (d : Bytes) (w : Inflight) (s : State) : (issue d w s).mss = s.mss := rfl
@[simp] theorem issue_dest (d : Bytes) (w : Inflight) (s : State) : (issue d w s).dest = s.dest := rfl
@[simp] theorem issue_localEp (d : Bytes) (w : Inflight) (s : State) : (issue d w s).localEp = s.localEp := rfl
@[simp] theorem issue_bound (d : Bytes) (w : Inflight) (s : State) : (issue d w s).bound = s.bound := rfl
@[simp] theorem issue_txbuf (d : Bytes) (w : Inflight) (s : State) : (issue d w s).txbuf = s.txbuf := rfl
@[simp] theorem issue_chunk (d : Bytes) (w : Inflight) (s : State) : (issue d w s).chunk = s.chunk := rfl
@[simp] theorem issue_inflight (d : Bytes) (w : Inflight) (s : State) : (issue d w s).inflight = w := rfl
@[simp] theorem issue_lastTx (d : Bytes) (w : Inflight) (s : State) : (issue d w s).lastTx = s.now := rfl
@[simp] theorem issue_pace (d : Bytes) (w : Inflight) (s : State) : (issue d w s).pace = s.pace := rfl
@[simp] theorem issue_rem (d : Bytes) (w : Inflight) (s : State) : (issue d w s).rem = s.rem := rfl
@[simp] theorem issue_rxbuf (d : Bytes) (w : Inflight) (s : State) : (issue d w s).rxbuf = s.rxbuf := rfl
@[simp] theorem issue_rxTs (d : Bytes) (w : Inflight) (s : State) : (issue d w s).rxTs = s.rxTs := rfl
@[simp] theorem issue_now (d : Bytes) (w : Inflight) (s : State) : (issue d w s).now = s.now := rfl
@[simp] theorem issue_refused (d : Bytes) (w : Inflight) (s : State) : (issue d w s).refused = s.refused := rfl
@[simp] theorem issue_params (d : Bytes) (w : Inflight) (s : State) : (issue d w s).params = s.params := rfl
@[simp] theorem issue_pending (d : Bytes) (w : Inflight) (s : State) : (issue d w s).pending = s.pending := rfl
@[simp] theorem issue_outputs (d : Bytes) (w : Inflight) (s : State) : (issue d w s).outputs = s.outputs ++ [.tx s.dest d] := rfl
@[simp] theorem issue_refusals (d : Bytes) (w : Inflight) (s : State) : (issue d w s).refusals = s.refusals := rfl
@[simp] theorem issue_freeCount (d : Bytes) (w : Inflight) (s : State) : (issue d w s).freeCount = s.freeCount := rfl

/-! ### fireSlice -/

@[simp] theorem fireSlice_msd (s : State) : (fireSlice s).msd = s.msd := rfl
@[simp] theorem fireSlice_mss (s : State) : (fireSlice s).mss = s.mss := rfl
@[simp] theorem fireSlice_dest (s : State) : (fireSlice s).dest = s.dest := rfl
@[simp] theorem fireSlice_localEp (s : State) : (fireSlice s).localEp = s.localEp := rfl
@[simp] theorem fireSlice_bound (s : State) : (fireSlice s).bound = s.bound := rfl
@[simp] theorem fireSlice_txbuf (s : State) : (fireSlice s).txbuf = s.txbuf := rfl
@[simp] theorem fireSlice_chunk (s : State) : (fireSlice s).chunk = s.chunk := rfl
@[simp] theorem fireSlice_inflight (s : State) : (fireSlice s).inflight = .chunk (sliceLength s) := rfl
@[simp] theorem fireSlice_lastTx (s : State) : (fireSlice s).lastTx = s.now := rfl
@[simp] theorem fireSlice_pace (s : State) : (fireSlice s).pace = .idle := rfl
@[simp] theorem fireSlice_rem (s : State) : (fireSlice s).rem = s.rem := rfl
@[simp] theorem fireSlice_rxbuf (s : State) : (fireSlice s).rxbuf = s.rxbuf := rfl
@[simp] theorem fireSlice_rxTs (s : State) : (fireSlice s).rxTs = s.rxTs := rfl
@[simp] theorem fireSlice_now (s : State) : (fireSlice s).now = s.now := rfl
@[simp] theorem fireSlice_refused (s : State) : (fireSlice s).refused = s.refused := rfl
@[simp] theorem fireSlice_params (s : State) : (fireSlice s).params = s.params := rfl
@[simp] theorem fireSlice_pending (s : State) : (fireSlice s).pending = s.pending := rfl
@[simp] theorem fireSlice_outputs (s : State) : (fireSlice s).outputs = s.outputs ++ [.tx s.dest (s.txbuf.take (sliceLength s))] := rfl
@[simp] theorem fireSlice_refusals (s : State) : (fireSlice s).refusals = s.refusals := rfl
@[simp] theorem fireSlice_freeCount (s : State) : (fireSlice s).freeCount = s.freeCount := rfl

/-! ### confirmWrite -/

@[simp] theorem confirmWrite_msd (s : State) : (confirmWrite s).msd = s.msd := rfl
@[simp] theorem confirmWrite_mss (s : State) : (confirmWrite s).mss = s.mss := rfl
@[simp] theorem confirmWrite_dest (s : State) : (confirmWrite s).dest = s.dest := rfl
@[simp] theorem confirmWrite_localEp (s : State) : (confirmWrite s).localEp = s.localEp := rfl
@[simp] theorem confirmWrite_bound (s : State) : (confirmWrite s).bound = s.bound := rfl
@[simp] theorem confirmWrite_txbuf (s : State) : (confirmWrite s).txbuf = s.txbuf.drop s.inflight.confirmedLength := rfl
@[simp] theorem confirmWrite_chunk (s : State) : (confirmWrite s).chunk = s.chunk := rfl
@[simp] theorem confirmWrite_inflight (s : State) : (confirmWrite s).inflight = .none := rfl
@[simp] theorem confirmWrite_lastTx (s : State) : (confirmWrite s).lastTx = s.lastTx := rfl
@[simp] theorem confirmWrite_pace (s : State) : (confirmWrite s).pace = s.pace := rfl
@[simp] theorem confirmWrite_rem (s : State) : (confirmWrite s).rem = s.rem := rfl
@[simp] theorem confirmWrite_rxbuf (s : State) : (confirmWrite s).rxbuf = s.rxbuf := rfl
@[simp] theorem confirmWrite_rxTs (s : State) : (confirmWrite s).rxTs = s.rxTs := rfl
@[simp] theorem confirmWrite_now (s : State) : (confirmWrite s).now = s.now := rfl
@[simp] theorem confirmWrite_refused (s : State) : (confirmWrite s).refused = s.refused := rfl
@[simp] theorem confirmWrite_params (s : State) : (confirmWrite s).params = s.params := rfl
@[simp] theorem confirmWrite_pending (s : State) : (confirmWrite s).pending = s.pending := rfl
@[simp] theorem confirmWrite_outputs (s : State) : (confirmWrite s).outputs = s.outputs := rfl
@[simp] theorem confirmWrite_refusals (s : State) : (confirmWrite s).refusals = s.refusals := rfl
@[simp] theorem confirmWrite_freeCount (s : State) : (confirmWrite s).freeCount = s.freeCount := rfl

/-! ### accumulate -/

@[simp] theorem accumulate_msd (d : Bytes) (s : State) : (accumulate d s).msd = s.msd := rfl
@[simp] theorem accumulate_mss (d : Bytes) (s : State) : (accumulate d s).mss = s.mss := rfl
@[simp] theorem accumulate_dest (d : Bytes) (s : State) : (accumulate d s).dest = s.dest := rfl
@[simp] theorem accumulate_localEp (d : Bytes) (s : State) : (accumulate d s).localEp = s.localEp := rfl
@[simp] theorem accumulate_bound (d : Bytes) (s : State) : (accumulate d s).bound = s.bound := rfl
@[simp] theorem accumulate_txbuf (d : Bytes) (s : State) : (accumulate d s).txbuf = s.txbuf := rfl
@[simp] theorem accumulate_chunk (d : Bytes) (s : State) : (accumulate d s).chunk = s.chunk := rfl
@[simp] theorem accumulate_inflight (d : Bytes) (s : State) : (accumulate d s).inflight = s.inflight := rfl
@[simp] theorem accumulate_lastTx (d : Bytes) (s : State) : (accumulate d s).lastTx = s.lastTx := rfl
@[simp] theorem accumulate_pace (d : Bytes) (s : State) : (accumulate d s).pace = s.pace := rfl
@[simp] theorem accumulate_rem (d : Bytes) (s : State) : (accumulate d s).rem = s.rem - 1 := rfl
@[simp] theorem accumulate_rxbuf (d : Bytes) (s : State) : (accumulate d s).rxbuf = s.rxbuf ++ d := rfl
@[simp] theorem accumulate_rxTs (d : Bytes) (s : State) : (accumulate d s).rxTs = s.now := rfl
@[simp] theorem accumulate_now (d : Bytes) (s : State) : (accumulate d s).now = s.now := rfl
@[simp] theorem accumulate_refused (d : Bytes) (s : State) : (accumulate d s).refused = s.refused := rfl
@[simp] theorem accumulate_params (d : Bytes) (s : State) : (accumulate d s).params = s.params := rfl
@[simp] theorem accumulate_pending (d : Bytes) (s : State) : (accumulate d s).pending = s.pending := rfl
@[simp] theorem accumulate_outputs (d : Bytes) (s : State) : (accumulate d s).outputs = s.outputs := rfl
@[simp] theorem accumulate_refusals (d : Bytes) (s : State) : (accumulate d s).refusals = s.refusals := rfl
@[simp] theorem accumulate_freeCount (d : Bytes) (s : State) : (accumulate d s).freeCount = s.freeCount := rfl

/-! ### complete -/

@[simp] theorem complete_msd (s : State) : (complete s).msd = s.msd := rfl
@[simp] theorem complete_mss (s : State) : (complete s).mss = s.mss := rfl
@[simp] theorem complete_dest (s : State) : (complete s).dest = s.dest := rfl
@[simp] theorem complete_localEp (s : State) : (complete s).localEp = s.localEp := rfl
@[simp] theorem complete_bound (s : State) : (complete s).bound = s.bound := rfl
@[simp] theorem complete_txbuf (s : State) : (complete s).txbuf = s.txbuf := rfl
@[simp] theorem complete_chunk (s : State) : (complete s).chunk = s.chunk := rfl
@[simp] theorem complete_inflight (s : State) : (complete s).inflight = s.inflight := rfl
@[simp] theorem complete_lastTx (s : State) : (complete s).lastTx = s.lastTx := rfl
@[simp] theorem complete_pace (s : State) : (complete s).pace = s.pace := rfl
@[simp] theorem complete_rem (s : State) : (complete s).rem = 0 := rfl
@[simp] theorem complete_rxbuf (s : State) : (complete s).rxbuf = [] := rfl
@[simp] theorem complete_rxTs (s : State) : (complete s).rxTs = s.rxTs := rfl
@[simp] theorem complete_now (s : State) : (complete s).now = s.now := rfl
@[simp] theorem complete_refused (s : State) : (complete s).refused = s.refused := rfl
@[simp] theorem complete_params (s : State) : (complete s).params = s.params := rfl
@[simp] theorem complete_pending (s : State) : (complete s).pending = s.pending := rfl
@[simp] theorem complete_outputs (s : State) : (complete s).outputs = (s.outputs ++ [.readyBytes s.rxbuf]) ++ [.decodeReq s.rxbuf] := rfl
@[simp] theorem complete_refusals (s : State) : (complete s).refusals = s.refusals := rfl
@[simp] theorem complete_freeCount (s : State) : (complete s).freeCount = s.freeCount := rfl

/-! ### acceptSend -/

@[simp] theorem acceptSend_msd (d : Bytes) (s : State) : (acceptSend d s).msd = s.msd := rfl
@[simp] theorem acceptSend_mss (d : Bytes) (s : State) : (acceptSend d s).mss = s.mss := rfl
@[simp] theorem acceptSend_dest (d : Bytes) (s : State) : (acceptSend d s).dest = s.dest := rfl
@[simp] theorem acceptSend_localEp (d : Bytes) (s : State) : (acceptSend d s).localEp = s.localEp := rfl
@[simp] theorem acceptSend_bound (d : Bytes) (s : State) : (acceptSend d s).bound = s.bound := rfl
@[simp] theorem acceptSend_txbuf (d : Bytes) (s : State) : (acceptSend d s).txbuf = d := rfl
@[simp] theorem acceptSend_chunk (d : Bytes) (s : State) : (acceptSend d s).chunk = narrow16 (chunkSize s.mss) := rfl
@[simp] theorem acceptSend_inflight (d : Bytes) (s : State) : (acceptSend d s).inflight = .hdr := rfl
@[simp] theorem acceptSend_lastTx (d : Bytes) (s : State) : (acceptSend d s).lastTx = s.now := rfl
@[simp] theorem acceptSend_pace (d : Bytes) (s : State) : (acceptSend d s).pace = s.pace := rfl
@[simp] theorem acceptSend_rem (d : Bytes) (s : State) : (acceptSend d s).rem = s.rem := rfl
@[simp] theorem acceptSend_rxbuf (d : Bytes) (s : State) : (acceptSend d s).rxbuf = s.rxbuf := rfl
@[simp] theorem acceptSend_rxTs (d : Bytes) (s : State) : (acceptSend d s).rxTs = s.rxTs := rfl
@[simp] theorem acceptSend_now (d : Bytes) (s : State) : (acceptSend d s).now = s.now := rfl
@[simp] theorem acceptSend_refused (d : Bytes) (s : State) : (acceptSend d s).refused = s.refused := rfl
@[simp] theorem acceptSend_params (d : Bytes) (s : State) : (acceptSend d s).params = s.params := rfl
@[simp] theorem acceptSend_pending (d : Bytes) (s : State) : (acceptSend d s).pending = s.pending := rfl
@[simp] theorem acceptSend_outputs (d : Bytes) (s : State) : (acceptSend d s).outputs = s.outputs ++ [.tx s.dest (encodeHeader s.params.crc s.params.hdrOrder (narrow16 (chunkCount s.params.countMode d.length (chunkSize s.mss))))] := rfl
@[simp] theorem acceptSend_refusals (d : Bytes) (s : State) : (acceptSend d s).refusals = s.refusals := rfl
@[simp] theorem acceptSend_freeCount (d : Bytes) (s : State) : (acceptSend d s).freeCount = s.freeCount := rfl

/-! ### takeInput -/

@[simp] theorem takeInput_msd (rest : List Input) (s : State) : (takeInput rest s).msd = s.msd := rfl
@[simp] theorem takeInput_mss (rest : List Input) (s : State) : (takeInput rest s).mss = s.mss := rfl
@[simp] theorem takeInput_dest (rest : List Input) (s : State) : (takeInput rest s).dest = s.dest := rfl
@[simp] theorem takeInput_localEp (rest : List Input) (s : State) : (takeInput rest s).localEp = s.localEp := rfl
@[simp] theorem takeInput_bound (rest : List Input) (s : State) : (takeInput rest s).bound = s.bound := rfl
@[simp] theorem takeInput_txbuf (rest : List Input) (s : State) : (takeInput rest s).txbuf = s.txbuf := rfl
@[simp] theorem takeInput_chunk (rest : List Input) (s : State) : (takeInput rest s).chunk = s.chunk := rfl
@[simp] theorem takeInput_inflight (rest : List Input) (s : State) : (takeInput rest s).inflight = s.inflight := rfl
@[simp] theorem takeInput_lastTx (rest : List Input) (s : State) : (takeInput rest s).lastTx = s.lastTx := rfl
@[simp] theorem takeInput_pace (rest : List Input) (s : State) : (takeInput rest s).pace = s.pace := rfl
@[simp] theorem takeInput_rem (rest : List Input) (s : State) : (takeInput rest s).rem = s.rem := rfl
@[simp] theorem takeInput_rxbuf (rest : List Input) (s : State) : (takeInput rest s).rxbuf = s.rxbuf := rfl
@[simp] theorem takeInput_rxTs (rest : List Input) (s : State) : (takeInput rest s).rxTs = s.rxTs := rfl
@[simp] theorem takeInput_now (rest : List Input) (s : State) : (takeInput rest s).now = s.now := rfl
@[simp] theorem takeInput_refused (rest : List Input) (s : State) : (takeInput rest s).refused = s.refused := rfl
@[simp] theorem takeInput_params (rest : List Input) (s : State) : (takeInput rest s).params = s.params := rfl
@[simp] theorem takeInput_pending (rest : List Input) (s : State) : (takeInput rest s).pending = rest := rfl
@[simp] theorem takeInput_outputs (rest : List Input) (s : State) : (takeInput rest s).outputs = s.outputs := rfl
@[simp] theorem takeInput_refusals (rest : List Input) (s : State) : (takeInput rest s).refusals = s.refusals := rfl
@[simp] theorem takeInput_freeCount (rest : List Input) (s : State) : (takeInput rest s).freeCount = s.freeCount := rfl

/-! ### offerInput -/

@[simp] theorem offerInput_msd (i : Input) (s : State) : (offerInput i s).msd = s.msd := rfl
@[simp] theorem offerInput_mss (i : Input) (s : State) : (offerInput i s).mss = s.mss := rfl
@[simp] theorem offerInput_dest (i : Input) (s : State) : (offerInput i s).dest = s.dest := rfl
@[simp] theorem offerInput_localEp (i : Input) (s : State) : (offerInput i s).localEp = s.localEp := rfl
@[simp] theorem offerInput_bound (i : Input) (s : State) : (offerInput i s).bound = s.bound := rfl
@[simp] theorem offerInput_txbuf (i : Input) (s : State) : (offerInput i s).txbuf = s.txbuf := rfl
@[simp] theorem offerInput_chunk (i : Input) (s : State) : (offerInput i s).chunk = s.chunk := rfl
@[simp] theorem offerInput_inflight (i : Input) (s : State) : (offerInput i s).inflight = s.inflight := rfl
@[simp] theorem offerInput_lastTx (i : Input) (s : State) : (offerInput i s).lastTx = s.lastTx := rfl
@[simp] theorem offerInput_pace (i : Input) (s : State) : (offerInput i s).pace = s.pace := rfl
@[simp] theorem offerInput_rem (i : Input) (s : State) : (offerInput i s).rem = s.rem := rfl
@[simp] theorem offerInput_rxbuf (i : Input) (s : State) : (offerInput i s).rxbuf = s.rxbuf := rfl
@[simp] theorem offerInput_rxTs (i : Input) (s : State) : (offerInput i s).rxTs = s.rxTs := rfl
@[simp] theorem offerInput_now (i : Input) (s : State) : (offerInput i s).now = s.now := rfl
@[simp] theorem offerInput_refused (i : Input) (s : State) : (offerInput i s).refused = s.refused := rfl
@[simp] theorem offerInput_params (i : Input) (s : State) : (offerInput i s).params = s.params := rfl
@[simp] theorem offerInput_pending (i : Input) (s : State) : (offerInput i s).pending = i :: s.pending := rfl
@[simp] theorem offerInput_outputs (i : Input) (s : State) : (offerInput i s).outputs = s.outputs := rfl
@[simp] theorem offerInput_refusals (i : Input) (s : State) : (offerInput i s).refusals = s.refusals := rfl
@[simp] theorem offerInput_freeCount (i : Input) (s : State) : (offerInput i s).freeCount = s.freeCount := rfl

/-! ### powerOn -/

@[simp] theorem powerOn_msd (p : Params) : (State.powerOn p).msd = 1 := rfl
@[simp] theorem powerOn_mss (p : Params) : (State.powerOn p).mss = p.mssReset := rfl
@[simp] theorem powerOn_dest (p : Params) : (State.powerOn p).dest = .unset := rfl
@[simp] theorem powerOn_localEp (p : Params) : (State.powerOn p).localEp = .unset := rfl
@[simp] theorem powerOn_bound (p : Params) : (State.powerOn p).bound = false := rfl
@[simp] theorem powerOn_txbuf (p : Params) : (State.powerOn p).txbuf = [] := rfl
@[simp] theorem powerOn_chunk (p : Params) : (State.powerOn p).chunk = 0 := rfl
@[simp] theorem powerOn_inflight (p : Params) : (State.powerOn p).inflight = .none := rfl
@[simp] theorem powerOn_lastTx (p : Params) : (State.powerOn p).lastTx = 0 := rfl
@[simp] theorem powerOn_pace (p : Params) : (State.powerOn p).pace = .idle := rfl
@[simp] theorem powerOn_rem (p : Params) : (State.powerOn p).rem = p.remReset.value := rfl
@[simp] theorem powerOn_rxbuf (p : Params) : (State.powerOn p).rxbuf = [] := rfl
@[simp] theorem powerOn_rxTs (p : Params) : (State.powerOn p).rxTs = 0 := rfl
@[simp] theorem powerOn_now (p : Params) : (State.powerOn p).now = 0 := rfl
@[simp] theorem powerOn_refused (p : Params) : (State.powerOn p).refused = false := rfl
@[simp] theorem powerOn_params (p : Params) : (State.powerOn p).params = p := rfl
@[simp] theorem powerOn_pending (p : Params) : (State.powerOn p).pending = [] := rfl
@[simp] theorem powerOn_outputs (p : Params) : (State.powerOn p).outputs = [] := rfl
@[simp] theorem powerOn_refusals (p : Params) : (State.powerOn p).refusals = [] := rfl
@[simp] theorem powerOn_freeCount (p : Params) : (State.powerOn p).freeCount = 0 := rfl

/-! ### armAt and paceArm: everything but PACE and the free-value count stays -/

@[simp] theorem armAt_msd (d : Int) (s : State) : (armAt d s).msd = s.msd := by
  unfold armAt; split <;> rfl
@[simp] theorem armAt_mss (d : Int) (s : State) : (armAt d s).mss = s.mss := by
  unfold armAt; split <;> rfl
@[simp] theorem armAt_dest (d : Int) (s : State) : (armAt d s).dest = s.dest := by
  unfold armAt; split <;> rfl
@[simp] theorem armAt_localEp (d : Int) (s : State) : (armAt d s).localEp = s.localEp := by
  unfold armAt; split <;> rfl
@[simp] theorem armAt_bound (d : Int) (s : State) : (armAt d s).bound = s.bound := by
  unfold armAt; split <;> rfl
@[simp] theorem armAt_txbuf (d : Int) (s : State) : (armAt d s).txbuf = s.txbuf := by
  unfold armAt; split <;> rfl
@[simp] theorem armAt_chunk (d : Int) (s : State) : (armAt d s).chunk = s.chunk := by
  unfold armAt; split <;> rfl
@[simp] theorem armAt_inflight (d : Int) (s : State) : (armAt d s).inflight = s.inflight := by
  unfold armAt; split <;> rfl
@[simp] theorem armAt_lastTx (d : Int) (s : State) : (armAt d s).lastTx = s.lastTx := by
  unfold armAt; split <;> rfl
@[simp] theorem armAt_rem (d : Int) (s : State) : (armAt d s).rem = s.rem := by
  unfold armAt; split <;> rfl
@[simp] theorem armAt_rxbuf (d : Int) (s : State) : (armAt d s).rxbuf = s.rxbuf := by
  unfold armAt; split <;> rfl
@[simp] theorem armAt_rxTs (d : Int) (s : State) : (armAt d s).rxTs = s.rxTs := by
  unfold armAt; split <;> rfl
@[simp] theorem armAt_now (d : Int) (s : State) : (armAt d s).now = s.now := by
  unfold armAt; split <;> rfl
@[simp] theorem armAt_refused (d : Int) (s : State) : (armAt d s).refused = s.refused := by
  unfold armAt; split <;> rfl
@[simp] theorem armAt_params (d : Int) (s : State) : (armAt d s).params = s.params := by
  unfold armAt; split <;> rfl
@[simp] theorem armAt_pending (d : Int) (s : State) : (armAt d s).pending = s.pending := by
  unfold armAt; split <;> rfl
@[simp] theorem armAt_outputs (d : Int) (s : State) : (armAt d s).outputs = s.outputs := by
  unfold armAt; split <;> rfl
@[simp] theorem armAt_refusals (d : Int) (s : State) : (armAt d s).refusals = s.refusals := by
  unfold armAt; split <;> rfl
@[simp] theorem paceArm_msd (s : State) : (paceArm s).msd = s.msd := armAt_msd _ s
@[simp] theorem paceArm_mss (s : State) : (paceArm s).mss = s.mss := armAt_mss _ s
@[simp] theorem paceArm_dest (s : State) : (paceArm s).dest = s.dest := armAt_dest _ s
@[simp] theorem paceArm_localEp (s : State) : (paceArm s).localEp = s.localEp := armAt_localEp _ s
@[simp] theorem paceArm_bound (s : State) : (paceArm s).bound = s.bound := armAt_bound _ s
@[simp] theorem paceArm_txbuf (s : State) : (paceArm s).txbuf = s.txbuf := armAt_txbuf _ s
@[simp] theorem paceArm_chunk (s : State) : (paceArm s).chunk = s.chunk := armAt_chunk _ s
@[simp] theorem paceArm_inflight (s : State) : (paceArm s).inflight = s.inflight := armAt_inflight _ s
@[simp] theorem paceArm_lastTx (s : State) : (paceArm s).lastTx = s.lastTx := armAt_lastTx _ s
@[simp] theorem paceArm_rem (s : State) : (paceArm s).rem = s.rem := armAt_rem _ s
@[simp] theorem paceArm_rxbuf (s : State) : (paceArm s).rxbuf = s.rxbuf := armAt_rxbuf _ s
@[simp] theorem paceArm_rxTs (s : State) : (paceArm s).rxTs = s.rxTs := armAt_rxTs _ s
@[simp] theorem paceArm_now (s : State) : (paceArm s).now = s.now := armAt_now _ s
@[simp] theorem paceArm_refused (s : State) : (paceArm s).refused = s.refused := armAt_refused _ s
@[simp] theorem paceArm_params (s : State) : (paceArm s).params = s.params := armAt_params _ s
@[simp] theorem paceArm_pending (s : State) : (paceArm s).pending = s.pending := armAt_pending _ s
@[simp] theorem paceArm_outputs (s : State) : (paceArm s).outputs = s.outputs := armAt_outputs _ s
@[simp] theorem paceArm_refusals (s : State) : (paceArm s).refusals = s.refusals := armAt_refusals _ s

end Sys2Proof.Machine
end

