-- ==== Sys2Proof/Laws/Ops.lean ====
section
/-! SUPPORT. What the shared operations and the meanings with several outcomes can do, said once: if an operation answers a next
state, one of the listed cases holds. Later proofs cite these and do not unfold the operations. -/

namespace Sys2Proof.Machine

/-! ### exec is one direct call of a meaning -/

@[simp] theorem exec_reserved0 (x : BitVec 28) (s : State) : exec (.reserved0 x) s = execReserved0 x s := rfl
@[simp] theorem exec_send (d : Bytes) (s : State) : exec (.send d) s = execSend d s := rfl
@[simp] theorem exec_writeDone (s : State) : exec .writeDone s = execWriteDone s := rfl
@[simp] theorem exec_rxDgram (d : Bytes) (s : State) : exec (.rxDgram d) s = receive d s := rfl
@[simp] theorem exec_xportError (e : U16) (s : State) : exec (.xportError e) s = execXportError e s := rfl
@[simp] theorem exec_paceFire (s : State) : exec .paceFire s = execPaceFire s := rfl
@[simp] theorem exec_setMsd (v : U16) (s : State) : exec (.setMsd v) s = execSetMsd v s := rfl
@[simp] theorem exec_getMsd (s : State) : exec .getMsd s = execGetMsd s := rfl
@[simp] theorem exec_setMss (v : U16) (s : State) : exec (.setMss v) s = execSetMss v s := rfl
@[simp] theorem exec_getMss (s : State) : exec .getMss s = execGetMss s := rfl
@[simp] theorem exec_setDest (a : Addr) (p : U16) (s : State) : exec (.setDest a p) s = execSetDest a p s := rfl
@[simp] theorem exec_bind (a : Addr) (p : U16) (ok : Bool) (s : State) :
    exec (.bind a p ok) s = execBind a p ok s := rfl
@[simp] theorem exec_isStreaming (s : State) : exec .isStreaming s = execIsStreaming s := rfl
@[simp] theorem exec_tick (t : U64) (s : State) : exec (.tick t) s = execTick t s := rfl
@[simp] theorem exec_reset (s : State) : exec .reset s = execReset s := rfl
@[simp] theorem exec_reservedF (x : BitVec 28) (s : State) : exec (.reservedF x) s = execReservedF x s := rfl
@[simp] theorem exec_header (c k : U16) (s : State) :
    exec (.header c k) s = receive (headerBytes s.params.hdrOrder c k) s := rfl
@[simp] theorem exec_dataChunk (d : Bytes) (s : State) : exec (.dataChunk d) s = receive d s := rfl

/-- However a datagram is delivered, `receive` handles it. -/
theorem exec_of_delivers {i : Instr} {s : State} {d : Bytes} (h : Delivers i s.params.hdrOrder d) :
    exec i s = receive d s := by
  rcases h with rfl | rfl | ⟨c, k, rfl, rfl⟩ <;> rfl

/-! ### Arming -/

/-- R120's equivalent form of the deadline. -/
theorem armDeadline_eq_max (s : State) :
    armDeadline s = ((max s.now.toNat (s.lastTx.toNat + s.msd.toNat) : Nat) : Int) := by
  simp only [armDeadline]
  split <;> omega

/-- An arm always leaves PACE armed. -/
theorem armAt_armed (d : Int) (s : State) : ∃ u, (armAt d s).pace = .armed u := by
  unfold armAt
  split <;> exact ⟨_, rfl⟩

/-- An arm whose deadline fits the time base. -/
theorem paceArm_of_lt (s : State) (h : max s.now.toNat (s.lastTx.toNat + s.msd.toNat) < u64Limit) :
    paceArm s =
      { s with pace := .armed (BitVec.ofNat 64 (max s.now.toNat (s.lastTx.toNat + s.msd.toNat))) } := by
  have h' : ((max s.now.toNat (s.lastTx.toNat + s.msd.toNat) : Nat) : Int) < (u64Limit : Int) := by exact_mod_cast h
  rw [paceArm, armDeadline_eq_max, armAt, if_pos h', BitVec.ofInt_natCast]

/-- The bounds of a deadline that does not fit (R120, R44). -/
theorem openDeadline_ge (s : State) : s.now.toNat ≤ (openDeadline s).toNat ∧ s.lastTx.toNat ≤ (openDeadline s).toNat := by
  have h : (openDeadline s).toNat = max (max s.now.toNat s.lastTx.toNat) (Config.freeDeadline s.freeCount).toNat := by
    rw [openDeadline, BitVec.toNat_ofNat, Nat.mod_eq_of_lt (by omega)]
  omega

/-- An arm whose deadline does not fit the time base takes a free value within its bounds. -/
theorem paceArm_of_ge (s : State) (h : u64Limit ≤ max s.now.toNat (s.lastTx.toNat + s.msd.toNat)) :
    paceArm s =
      { s with pace := .armed (openDeadline s), freeCount := s.freeCount + 1 } := by
  have h' : ¬ ((max s.now.toNat (s.lastTx.toNat + s.msd.toNat) : Nat) : Int) < (u64Limit : Int) := by
    exact_mod_cast not_lt.mpr h
  rw [paceArm, armDeadline_eq_max, armAt, if_neg h']

/-- Whatever the time base, an arm's deadline is no earlier than NOW and no earlier than the last issue (R44). -/
theorem paceArm_deadline_ge {s : State} {d : U64} (h : (paceArm s).pace = .armed d) :
    s.now.toNat ≤ d.toNat ∧ s.lastTx.toNat ≤ d.toNat := by
  by_cases hf : max s.now.toNat (s.lastTx.toNat + s.msd.toNat) < u64Limit
  · rw [paceArm_of_lt s hf] at h
    injection h with h
    subst h
    rw [BitVec.toNat_ofNat, Nat.mod_eq_of_lt (show _ < 2 ^ 64 from hf)]
    omega
  · rw [paceArm_of_ge s (by omega)] at h
    injection h with h
    exact h ▸ openDeadline_ge s

/-! ### The Sender Engine -/

@[simp] theorem narrow16_natCast (n : Nat) : narrow16 (n : Int) = BitVec.ofNat 16 n :=
  BitVec.ofInt_natCast 16 n

theorem exceedsCap_eq_true (cap : Option Nat) (n : Nat) : exceedsCap cap n = true ↔ ∃ c, cap = some c ∧ c < n := by
  cases cap <;> simp [exceedsCap]

/-- SEND past its no-op test (R103). -/
theorem execSend_of_idle {d : Bytes} {s : State} (hd : d ≠ []) (hb : s.txbuf = []) :
    execSend d s = match sendRefusal s d with
      | some r => .next (refuse r s)
      | none => .next (acceptSend d s) := by
  unfold execSend
  exact if_neg (by simp [hd, hb])

/-- A SEND that `Accepts` admits meets none of R102's refusals. -/
theorem sendRefusal_of_accepts {d : Bytes} {s : State} (h : Accepts s d) : sendRefusal s d = none := by
  obtain ⟨_, _, hm, hn, hc⟩ := h
  unfold sendRefusal
  rw [if_neg (by simp only [chunkSize, Config.maxPayload]; omega),
    if_neg (by simpa [Config.countMax, chunkSize, Config.maxPayload] using hn), if_neg]
  rw [exceedsCap_eq_true]
  rintro ⟨c, hcap, hlt⟩
  exact absurd (hc c hcap) (by omega)

/-- An accepted SEND (R103). -/
theorem execSend_of_accepts {d : Bytes} {s : State} (h : Accepts s d) : execSend d s = .next (acceptSend d s) := by
  rw [execSend_of_idle h.1 h.2.1, sendRefusal_of_accepts h]

theorem execSend_next {d : Bytes} {s t : State} (h : execSend d s = .next t) :
    ((d = [] ∨ s.txbuf ≠ []) ∧ t = emit .sent s) ∨
    (d ≠ [] ∧ s.txbuf = [] ∧
      ((∃ r, sendRefusal s d = some r ∧ t = refuse r s) ∨ (sendRefusal s d = none ∧ t = acceptSend d s))) := by
  unfold execSend at h
  split at h
  · rename_i hn
    left
    simp only [List.length_eq_zero_iff, List.length_pos_iff] at hn
    exact ⟨hn, by injection h with h; exact h.symm⟩
  · rename_i hn
    simp only [List.length_eq_zero_iff, List.length_pos_iff, not_or, not_not] at hn
    right
    refine ⟨hn.1, hn.2, ?_⟩
    split at h
    · rename_i r hr
      exact .inl ⟨r, hr, by injection h with h; exact h.symm⟩
    · rename_i hr
      exact .inr ⟨hr, by injection h with h; exact h.symm⟩

theorem execWriteDone_next {s t : State} (h : execWriteDone s = .next t) :
    s.inflight ≠ .none ∧
    (((confirmWrite s).txbuf = [] ∧ t = emit .sent (confirmWrite s)) ∨
      ((confirmWrite s).txbuf ≠ [] ∧ t = paceArm (confirmWrite s))) := by
  unfold execWriteDone at h
  split at h
  · rename_i he
    refine ⟨by simpa [State.writeDoneEnabled] using he, ?_⟩
    split at h
    · rename_i hl
      exact .inl ⟨List.length_eq_zero_iff.mp hl, by injection h with h; exact h.symm⟩
    · rename_i hl
      exact .inr ⟨fun hc => hl (by rw [hc]; rfl), by injection h with h; exact h.symm⟩
  · cases h

/-- WRITE_DONE of an outstanding write (R105). -/
theorem execWriteDone_of_outstanding {s : State} (h : s.inflight ≠ .none) :
    execWriteDone s =
      if (confirmWrite s).txbuf.length = 0 then .next (emit .sent (confirmWrite s))
      else .next (paceArm (confirmWrite s)) := by
  unfold execWriteDone
  exact if_pos (by simpa [State.writeDoneEnabled] using h)

theorem execPaceFire_next {s t : State} (h : execPaceFire s = .next t) :
    ∃ d, s.pace = .armed d ∧ d.toNat ≤ s.now.toNat ∧
      t = fireSlice s := by
  unfold execPaceFire at h
  split at h
  · rename_i he
    unfold State.paceFireEnabled at he
    cases hp : s.pace with
    | idle => simp [hp] at he
    | armed d => exact ⟨d, rfl, by simpa [hp] using he, by injection h with h; exact h.symm⟩
  · cases h

theorem execPaceFire_of_enabled {s : State} {d : U64} (hp : s.pace = .armed d) (hd : d.toNat ≤ s.now.toNat) :
    execPaceFire s = .next (fireSlice s) := by
  simp [execPaceFire, State.paceFireEnabled, hp, hd]

theorem execTick_next {u : U64} {s t : State} (h : execTick u s = .next t) :
    s.now.toNat ≤ u.toNat ∧ t = { s with now := u } := by
  unfold execTick at h
  split at h
  · rename_i he
    exact ⟨by simpa [State.tickEnabled] using he, by injection h with h; exact h.symm⟩
  · cases h

theorem execBind_next {a : Addr} {p : U16} {ok : Bool} {s t : State} (h : execBind a p ok s = .next t) :
    (ok = true ∧ t = { s with localEp := .set ⟨a, p⟩, bound := true }) ∨
    (ok = false ∧ t = raise (.bindFailure ⟨a, p⟩) { s with localEp := .set ⟨a, p⟩, bound := false }) := by
  cases ok
  · right; exact ⟨rfl, by injection h with h; exact h.symm⟩
  · left; exact ⟨rfl, by injection h with h; exact h.symm⟩

/-! ### The Receiver Engine -/

theorem receive_next {d : Bytes} {s t : State} (h : receive d s = .next t) :
    s.bound = true ∧
    ((∃ r, rxRefusal s d = some r ∧ t = refuse r s) ∨
      (rxRefusal s d = none ∧ t = recognise d (takeDatagram d s))) := by
  unfold receive at h
  split at h
  · rename_i he
    refine ⟨by simpa [State.rxEnabled] using he, ?_⟩
    split at h
    · rename_i r hr
      exact .inl ⟨r, hr, by injection h with h; exact h.symm⟩
    · rename_i hr
      exact .inr ⟨hr, by injection h with h; exact h.symm⟩
  · cases h

/-- A datagram in the domain, delivered while bound, is taken. -/
theorem receive_of_accepted {d : Bytes} {s : State} (hb : s.bound = true) (hr : rxRefusal s d = none) :
    receive d s = .next (recognise d (takeDatagram d s)) := by
  simp [receive, State.rxEnabled, hb, hr]

/-- The domain of an inbound datagram (R131, R51). -/
theorem rxRefusal_eq_none {d : Bytes} {s : State} (hl : d.length ≤ 1400)
    (hc : ∀ cap, s.params.bufCap = some cap → 0 < s.rem.toInt → s.rxbuf.length + d.length ≤ cap) :
    rxRefusal s d = none := by
  unfold rxRefusal
  rw [if_neg (by simp only [Config.maxPayload]; omega)]
  rw [if_neg]
  rintro ⟨hp, he⟩
  unfold exceedsCap at he
  cases hcap : s.params.bufCap with
  | none => simp [hcap] at he
  | some cap =>
    have := hc cap hcap hp
    simp only [hcap, decide_eq_true_eq] at he
    omega

/-- Steps 1 and 2 exclude each other (R135). -/
theorem takeDatagram_cases (d : Bytes) (s : State) :
    (0 < s.rem.toInt ∧ takeDatagram d s = accumulate d s) ∨
    (s.rem.toInt ≤ 0 ∧ s.rxbuf ≠ [] ∧ takeDatagram d s = complete s) ∨
    (s.rem.toInt ≤ 0 ∧ s.rxbuf = [] ∧ takeDatagram d s = s) := by
  unfold takeDatagram
  split
  · exact .inl ⟨‹_›, rfl⟩
  · split
    · exact .inr (.inl ⟨by omega, List.length_pos_iff.mp ‹_›, rfl⟩)
    · rename_i h0
      exact .inr (.inr ⟨by omega, by simpa using h0, rfl⟩)

/-- Step 3 (R134). -/
theorem recognise_cases (d : Bytes) (s : State) :
    (d.length ≠ 4 ∧ recognise d s = s) ∨
    (d.length = 4 ∧ ∃ c, decodeHeader s.params.crc s.params.hdrOrder d = .ok c ∧
      recognise d s = { s with rem := c, rxTs := s.now }) ∨
    (d.length = 4 ∧ ∃ r, decodeHeader s.params.crc s.params.hdrOrder d = .error r ∧
      recognise d s = raise (.headerReject r d) s) := by
  unfold recognise
  split
  · rename_i hl
    cases hd : decodeHeader s.params.crc s.params.hdrOrder d with
    | ok c => exact .inr (.inl ⟨hl, c, rfl, rfl⟩)
    | error r => exact .inr (.inr ⟨hl, r, rfl, rfl⟩)
  · exact .inl ⟨‹_›, rfl⟩

/-- What the arrival of a datagram leaves alone (R67), and what it never emits. -/
theorem receive_frame {d : Bytes} {s t : State} (h : receive d s = .next t) :
    (∃ os, t.outputs = s.outputs ++ os ∧ txDatagrams os = [] ∧ .sent ∉ os) ∧
    t.txbuf = s.txbuf ∧ t.inflight = s.inflight ∧ t.pace = s.pace ∧ t.chunk = s.chunk ∧ t.lastTx = s.lastTx ∧
    t.now = s.now ∧ t.msd = s.msd ∧ t.mss = s.mss ∧ t.dest = s.dest ∧ t.localEp = s.localEp ∧ t.bound = s.bound ∧
    t.params = s.params ∧ t.pending = s.pending ∧ t.freeCount = s.freeCount := by
  obtain ⟨_, ⟨r, _, rfl⟩ | ⟨_, rfl⟩⟩ := receive_next h
  · exact ⟨⟨[], by simp [txDatagrams]⟩, by simp⟩
  · rcases takeDatagram_cases d s with ⟨_, e⟩ | ⟨_, _, e⟩ | ⟨_, _, e⟩ <;> rw [e] <;>
      rcases recognise_cases d _ with ⟨_, e'⟩ | ⟨_, c, _, e'⟩ | ⟨_, r, _, e'⟩ <;> rw [e'] <;>
      simp [txDatagrams, txDatagram]

/-- Step 1's decrement of REM, written on `Int` (R9). -/
theorem rem_sub_one (r : S16) : r - 1 = BitVec.ofInt 16 (r.toInt - 1) := by
  apply BitVec.eq_of_toInt_eq
  rw [BitVec.toInt_sub, BitVec.toInt_ofInt]
  rfl

/-- It does not wrap while REM is positive (R32). -/
theorem rem_sub_one_toInt {r : S16} (h : 0 < r.toInt) : (r - 1).toInt = r.toInt - 1 := by
  have := r.toInt_lt
  rw [rem_sub_one, BitVec.toInt_ofInt_eq_self (by decide)] <;> simp at * <;> omega

/-- A count DECODE accepts is positive (R92). -/
theorem decodeHeader_ok_pos {alg : CrcAlg} {o : HdrOrder} {d : Bytes} {c : S16}
    (h : decodeHeader alg o d = .ok c) : 0 < c.toInt := by
  unfold decodeHeader at h
  split at h
  · split at h
    · cases h
    · split at h
      · cases h
      · injection h with h
        subst h
        omega
  · cases h

/-! ### The step -/

theorem step_cons {s : State} {e : Input} {rest : List Input} (h : s.pending = e :: rest) :
    step s = match decode s.params.hdrOrder e with
      | .ok i => exec i (takeInput rest s)
      | .error r => reject r (takeInput rest s) := by
  cases hd : decode s.params.hdrOrder e <;> simp [step, h, hd]

/-- What one step can do. -/
theorem step_next {s t : State} (h : step s = .next t) :
    (s.pending = [] ∧ t = s) ∨
    (∃ e rest i, s.pending = e :: rest ∧ decode s.params.hdrOrder e = .ok i ∧ exec i (takeInput rest s) = .next t) ∨
    (∃ e rest, s.pending = e :: rest ∧ t = refuse .reservedCmd (takeInput rest s)) := by
  cases hp : s.pending with
  | nil =>
    simp only [step, hp] at h
    exact .inl ⟨rfl, by injection h with h; exact h.symm⟩
  | cons e rest =>
    rw [step_cons hp] at h
    right
    split at h
    · rename_i i hi
      exact .inl ⟨e, rest, i, rfl, hi, h⟩
    · rename_i r _
      right
      refine ⟨e, rest, rfl, ?_⟩
      cases r with
      | missingOperand => cases h
      | rsvdNonzero => injection h with h; exact h.symm
      | flagNonzero => injection h with h; exact h.symm
      | immNonzero => injection h with h; exact h.symm

/-! ### Runs -/

theorem newOutputs_of_append {s t : State} {os : List Output} (h : t.outputs = s.outputs ++ os) :
    newOutputs s t = os := by
  simp [newOutputs, h]

theorem andThen_next {o : Outcome} {f : State → Outcome} {t : State} (h : andThen o f = .next t) :
    ∃ s, o = .next s ∧ f s = .next t := by
  cases o with
  | next s => exact ⟨s, rfl, h⟩
  | fault r => cases h
  | refused r => cases h

@[simp] theorem andThen_of_next (s : State) (f : State → Outcome) : andThen (.next s) f = f s := rfl

@[simp] theorem execAll_nil (s : State) : execAll [] s = .next s := rfl

@[simp] theorem execAll_cons (i : Instr) (is : List Instr) (s : State) :
    execAll (i :: is) s = andThen (exec i s) (execAll is) := rfl

end Sys2Proof.Machine
end

