-- ==== Sys2Proof/Laws/PerInstr.lean ====
section
/-! SUPPORT. The per-instruction family EncodedFields: what an encoded instruction looks like at the block's ports. -/

namespace Sys2Proof.Laws.EncodedFields

/-- A command instruction is encoded with the OP of its row (30_encoding.md R78), and unless that OP is reserved, with RSVD = 0
(R76). The two wire formats are encoded as the datagram's own bytes (R71, R73). -/
def Statement (i : Instr) : Prop :=
  ∀ o : HdrOrder,
    match i with
    | .header c k => encode o i = .wire (headerBytes o c k)
    | .dataChunk d => encode o i = .wire d
    | .reserved0 x => ∃ w, encode o i = .command w .none ∧ opField w = 0x0 ∧ w.extractLsb' 0 28 = x
    | .reservedF x => ∃ w, encode o i = .command w .none ∧ opField w = 0xF ∧ w.extractLsb' 0 28 = x
    | _ => ∃ w side, encode o i = .command w side ∧ opField w ≠ 0x0 ∧ opField w ≠ 0xF ∧ rsvdField w = 0

theorem reserved0 (x : BitVec 28) : Statement (.reserved0 x) := fun _ =>
  ⟨_, rfl, opField_reservedWord .reserved0 x, free_reservedWord .reserved0 x⟩

theorem reservedF (x : BitVec 28) : Statement (.reservedF x) := fun _ =>
  ⟨_, rfl, opField_reservedWord .reservedF x, free_reservedWord .reservedF x⟩

/-- Every word with fields, of an OP that is not reserved. -/
theorem of_commandWord (op : Op) (f : Bool) (imm : U16) (side : Side) (h : op.code ≠ 0x0 ∧ op.code ≠ 0xF) :
    ∃ w side', Input.command (commandWord op f imm) side = .command w side' ∧
      opField w ≠ 0x0 ∧ opField w ≠ 0xF ∧ rsvdField w = 0 :=
  ⟨_, _, rfl, by rw [opField_commandWord]; exact h.1, by rw [opField_commandWord]; exact h.2,
    rsvdField_commandWord op f imm⟩

theorem send (d : Bytes) : Statement (.send d) := fun _ => of_commandWord .send _ _ _ (by decide)
theorem writeDone : Statement .writeDone := fun _ => of_commandWord .writeDone _ _ _ (by decide)
theorem rxDgram (d : Bytes) : Statement (.rxDgram d) := fun _ => of_commandWord .rxDgram _ _ _ (by decide)
theorem xportError (e : U16) : Statement (.xportError e) := fun _ => of_commandWord .xportError _ _ _ (by decide)
theorem paceFire : Statement .paceFire := fun _ => of_commandWord .paceFire _ _ _ (by decide)
theorem setMsd (v : U16) : Statement (.setMsd v) := fun _ => of_commandWord .setMsd _ _ _ (by decide)
theorem getMsd : Statement .getMsd := fun _ => of_commandWord .getMsd _ _ _ (by decide)
theorem setMss (v : U16) : Statement (.setMss v) := fun _ => of_commandWord .setMss _ _ _ (by decide)
theorem getMss : Statement .getMss := fun _ => of_commandWord .getMss _ _ _ (by decide)
theorem setDest (a : Addr) (p : U16) : Statement (.setDest a p) := fun _ =>
  of_commandWord .setDest _ _ _ (by decide)
theorem bind (a : Addr) (p : U16) (ok : Bool) : Statement (.bind a p ok) := fun _ =>
  of_commandWord .bind _ _ _ (by decide)
theorem isStreaming : Statement .isStreaming := fun _ => of_commandWord .isStreaming _ _ _ (by decide)
theorem tick (t : U64) : Statement (.tick t) := fun _ => of_commandWord .tick _ _ _ (by decide)
theorem reset : Statement .reset := fun _ => of_commandWord .reset _ _ _ (by decide)
theorem header (c k : U16) : Statement (.header c k) := fun _ => rfl
theorem dataChunk (d : Bytes) : Statement (.dataChunk d) := fun _ => rfl

end Sys2Proof.Laws.EncodedFields
end

