-- ==== Sys2Proof/Laws/Runs.lean ====
section
/-! SUPPORT. Small facts about the chunks of a stream (41_sender.md R104), the datagrams of an output sequence, a sender whose
scheduler is armed (10_state.md R40), runs of input events (70_reset_and_hazards.md R215), and the ends of a link
(60_exceptions.md R189). -/

namespace Sys2Proof.Machine

theorem chunkTotal_zero {cs : Nat} (h : 0 < cs) : chunkTotal 0 cs = 0 := by
  simp [chunkTotal, Nat.div_eq_of_lt (show cs - 1 < cs by omega)]

/-- One more chunk than what remains after the first. -/
theorem chunkTotal_succ {len cs : Nat} (h : 0 < cs) (hl : 0 < len) :
    chunkTotal len cs = chunkTotal (len - cs) cs + 1 := by
  unfold chunkTotal
  by_cases hc : len ≤ cs
  · rw [show len - cs = 0 by omega, Nat.zero_add, Nat.div_eq_of_lt (show cs - 1 < cs by omega)]
    rw [Nat.div_eq_of_lt_le] <;> omega
  · rw [show len + cs - 1 = (len - cs + cs - 1) + cs by omega, Nat.add_div_right _ h]

theorem chunksOf_nil {cs : Nat} (h : 0 < cs) : chunksOf [] cs = [] := by
  simp [chunksOf, chunkTotal_zero h]

/-- The first chunk, and the chunks of the rest. -/
theorem chunksOf_cons {data : Bytes} {cs : Nat} (h : 0 < cs) (hd : data ≠ []) :
    chunksOf data cs = data.take cs :: chunksOf (data.drop cs) cs := by
  unfold chunksOf
  rw [chunkTotal_succ h (List.length_pos_iff.mpr hd), List.range_succ_eq_map, List.length_drop]
  simp [chunkAt, Function.comp_def, Nat.add_mul, Nat.add_comm]

/-- The chunks joined are the data. -/
theorem chunksOf_flatten {cs : Nat} (h : 0 < cs) (data : Bytes) : (chunksOf data cs).flatten = data := by
  induction hn : data.length using Nat.strong_induction_on generalizing data with
  | _ n ih =>
    by_cases hd : data = []
    · subst hd
      rw [chunksOf_nil h]
      rfl
    · have : 0 < data.length := List.length_pos_iff.mpr hd
      rw [chunksOf_cons h hd, List.flatten_cons, ih (data.drop cs).length (by simp; omega) _ rfl, List.take_append_drop]

theorem txDatagrams_append (a b : List Output) : txDatagrams (a ++ b) = txDatagrams a ++ txDatagrams b := by
  simp [txDatagrams]

/-- While the scheduler is armed there is something to send and nothing outstanding (R40). -/
theorem SenderControl.of_armed {s : State} {d : U64} (hs : SenderControl s) (hp : s.pace = .armed d) :
    s.txbuf ≠ [] ∧ s.inflight = .none := by
  have hx : s.txbuf ≠ [] := fun hx => by simp [(hs.1 hx).2] at hp
  refine ⟨hx, ?_⟩
  rcases hs.2 hx with ⟨_, h⟩ | ⟨h, _⟩
  · simp [h] at hp
  · exact h

/-! ### Runs of input events -/

theorem reject_next {r : DecodeReject} {s t : State} (h : reject r s = .next t) : t = refuse .reservedCmd s := by
  cases r <;> simp_all [reject]

/-- A step on an event just offered is that event's instruction at the state it was offered to. -/
theorem step_offerInput (e : Input) (s : State) :
    step (offerInput e s) = match decode s.params.hdrOrder e with
      | .ok i => exec i s
      | .error r => reject r s := rfl

/-- A delivery is the RX_DGRAM of its datagram. -/
theorem step_deliveryInput (d : Bytes) (s : State) : step (offerInput (deliveryInput d) s) = exec (.rxDgram d) s := rfl

theorem runEvents_cons_next {e : Input} {es : List Input} {s t : State} (h : runEvents (e :: es) s = .next t) :
    ∃ u, step (offerInput e s) = .next u ∧ runEvents es u = .next t := by
  cases hs : step (offerInput e s) <;> simp_all [runEvents, andThen]

theorem trace_cons_next {e : Input} {es : List Input} {s u : State} (h : step (offerInput e s) = .next u) :
    trace (e :: es) s = (s, e) :: trace es u := by
  simp [trace, h]

theorem runStates_cons_next {e : Input} {es : List Input} {s u : State} (h : step (offerInput e s) = .next u) :
    runStates (e :: es) s = s :: runStates es u := by
  simp [runStates, h]

/-- NO_REFUSAL of a run is that of its first state and of the run from the next. -/
theorem noRefusal_cons_next {e : Input} {es : List Input} {s u : State} (h : step (offerInput e s) = .next u) :
    NoRefusal (e :: es) s ↔ s.refused = false ∧ NoRefusal es u := by
  simp [NoRefusal, runStates_cons_next h]

/-! ### The two ends of a link -/

@[simp] theorem Link.at_setAt (l : Link) (e : Endpt) (s : State) : (l.setAt e s).at e = s := by cases e <;> rfl
@[simp] theorem Link.at_other_setAt (l : Link) (e : Endpt) (s : State) : (l.setAt e s).at e.other = l.at e.other := by
  cases e <;> rfl
@[simp] theorem Link.held_setAt (l : Link) (e f : Endpt) (s : State) : (l.setAt e s).held f = l.held f := by
  cases e <;> cases f <;> rfl
@[simp] theorem Link.at_mapHeld (l : Link) (e f : Endpt) (g : List Transit → List Transit) :
    (l.mapHeld e g).at f = l.at f := by
  cases e <;> cases f <;> rfl
@[simp] theorem Link.held_mapHeld (l : Link) (e : Endpt) (g : List Transit → List Transit) :
    (l.mapHeld e g).held e = g (l.held e) := by
  cases e <;> rfl
@[simp] theorem Link.held_other_mapHeld (l : Link) (e : Endpt) (g : List Transit → List Transit) :
    (l.mapHeld e g).held e.other = l.held e.other := by
  cases e <;> rfl
@[simp] theorem Link.held_mapHeld_other (l : Link) (e : Endpt) (g : List Transit → List Transit) :
    (l.mapHeld e.other g).held e = l.held e := by
  cases e <;> rfl
@[simp] theorem Endpt.other_other (e : Endpt) : e.other.other = e := by cases e <;> rfl

end Sys2Proof.Machine
end

