-- ==== Sys2Proof/Machine/ProgramText.lean ====
section
/-! DEFINITION. The text of event programs: the grammar of 30_encoding.md R81 and the harness forms of R82, read from characters,
and a program run on a link. -/

namespace Sys2Proof.Machine

/-! ### Characters and words -/

/-- Words are set apart by spaces and tabs, but not inside double quotes. A semicolon outside them begins a comment. `cur` is the
word being read, last character first. -/
def wordsFrom (quoted : Bool) (cur : List Char) : List Char → List (List Char)
  | [] => if cur = [] then [] else [cur.reverse]
  | c :: cs =>
    if c = '"' then wordsFrom (!quoted) (c :: cur) cs
    else if quoted then wordsFrom quoted (c :: cur) cs
    else if c = ';' then (if cur = [] then [] else [cur.reverse])
    else if c = ' ' ∨ c = '\t' then
      (if cur = [] then wordsFrom quoted [] cs else cur.reverse :: wordsFrom quoted [] cs)
    else wordsFrom quoted (c :: cur) cs

/-- The digits of R8's hexadecimal notation in order of value. The first ten are the decimal ones. -/
def digits : List Char := "0123456789ABCDEF".toList

/-- The value of a digit to a base of at most 16, in either letter case. -/
def digitValue (base : Nat) (c : Char) : Option Nat := (digits.take base).idxOf? c.toUpper

/-- The number whose leading digits have value `acc` and whose further digits are the given ones. -/
def numeral (base acc : Nat) : List Char → Option Nat
  | [] => some acc
  | c :: cs => (digitValue base c).bind fun d => numeral base (base * acc + d) cs

/-- `hexbyte`: two hexadecimal digits. -/
def hexByte (hi lo : Char) : Option Byte := (numeral 16 0 [hi, lo]).map (BitVec.ofNat 8)

/-- `hexbyte*` up to the closing quote, with or without spaces between the bytes. -/
def hexBytes : List Char → Option Bytes
  | ['"'] => some []
  | ' ' :: cs => hexBytes cs
  | hi :: lo :: cs => do
    let b ← hexByte hi lo
    let bs ← hexBytes cs
    return b :: bs
  | _ => none

/-- A decimal number: one digit or more, and nothing else. -/
def decimal (cs : List Char) : Option Nat := if cs = [] then none else numeral 10 0 cs

/-- Whether a character is a decimal digit. -/
def isDecimalDigit (c : Char) : Bool := (digitValue 10 c).isSome

/-- A decimal number that fits w bits. -/
def decimalOf (w : Nat) (cs : List Char) : Option (BitVec w) := do
  let n ← decimal cs
  if n < 2 ^ w then some (BitVec.ofNat w n) else none

/-- The rest of a word after a prefix. -/
def afterPrefix : List Char → List Char → Option (List Char)
  | [], cs => some cs
  | p :: ps, c :: cs => if p = c then afterPrefix ps cs else none
  | _ :: _, [] => none

/-- `addr`: an identifier stands for an opaque address, a different one for each identifier. -/
def addrOf (cs : List Char) : Addr := ⟨cs.foldl (fun n c => n * 0x200000 + (c.toNat + 1)) 0⟩

/-! ### The grammar of R81 -/

/-- `data`: `hex"…"`, `n:inc`, `n:inc+s` or `n:fill=xx`. -/
def parseData (cs : List Char) : Option DataExpr :=
  match afterPrefix "hex\"".toList cs with
  | some rest => (hexBytes rest).map .hex
  | none =>
    match decimal (cs.takeWhile isDecimalDigit), cs.dropWhile isDecimalDigit with
    | none, _ => none
    | some n, rest =>
      match afterPrefix ":inc".toList rest, afterPrefix ":fill=".toList rest with
      | some [], _ => some (.inc n 0)
      | some ('+' :: s), _ => (decimal s).map (.inc n)
      | _, some [hi, lo] => (hexByte hi lo).map (.fill n)
      | _, _ => none

/-- `'ok=' ('0'|'1')`. -/
def parseVerdict (cs : List Char) : Option Bool :=
  match afterPrefix "ok=".toList cs with
  | some ['0'] => some false
  | some ['1'] => some true
  | _ => none

/-- `event`. -/
def parseEvent : List (List Char) → Option Event
  | [k] =>
    if k = "RESET".toList then some .reset
    else if k = "GET_MSD".toList then some .getMsd
    else if k = "GET_MSS".toList then some .getMss
    else if k = "IS_STREAMING".toList then some .isStreaming
    else if k = "WRITE_DONE".toList then some .writeDone
    else if k = "FIRE".toList then some .fire
    else none
  | [k, x] =>
    if k = "TICK".toList then (decimalOf 64 x).map .tick
    else if k = "SET_MSD".toList then (decimalOf 16 x).map .setMsd
    else if k = "SET_MSS".toList then (decimalOf 16 x).map .setMss
    else if k = "XERR".toList then (decimalOf 16 x).map .xerr
    else if k = "SEND".toList then (parseData x).map .send
    else if k = "RX".toList then (parseData x).map .rx
    else none
  | [k, x, y] => if k = "SET_DEST".toList then (decimalOf 16 y).map (.setDest (addrOf x)) else none
  | [k, x, y, z] =>
    if k = "BIND".toList then do
      let port ← decimalOf 16 y
      let ok ← parseVerdict z
      return .bind (addrOf x) port ok
    else none
  | _ => none

/-- A line of a program: an event, at an end where one is named (R81), or a harness form (R82). -/
inductive Line where
  | event (inst : Option Endpt) (e : Event)
  | xfer (src : Endpt)
  | drop (src : Endpt)
  | lose (src : Endpt)
  | waitFire (e : Endpt)
  deriving DecidableEq, Repr

/-- `inst`, or the name of an end in a harness form. -/
def parseEndpt (cs : List Char) : Option Endpt :=
  if cs = ['A'] then some .a else if cs = ['B'] then some .b else none

/-- The words of a line. -/
def parseWords : List (List Char) → Option Line
  | [k, x] =>
    if k = "XFER".toList then
      (if x = "A->B".toList then some (.xfer .a) else if x = "B->A".toList then some (.xfer .b) else none)
    else if k = "DROP".toList then (parseEndpt x).map .drop
    else if k = "LOSE".toList then (parseEndpt x).map .lose
    else if k = "WAITFIRE".toList then (parseEndpt x).map .waitFire
    else if k = "A:".toList then (parseEvent [x]).map (.event (some .a))
    else if k = "B:".toList then (parseEvent [x]).map (.event (some .b))
    else (parseEvent [k, x]).map (.event none)
  | k :: rest =>
    if k = "A:".toList then (parseEvent rest).map (.event (some .a))
    else if k = "B:".toList then (parseEvent rest).map (.event (some .b))
    else (parseEvent (k :: rest)).map (.event none)
  | [] => none

/-- `line` of R81, or a harness form of R82. `none` where the text is no line. -/
def parseLine (text : String) : Option Line := parseWords (wordsFrom false [] text.toList)

/-! ### Running a program on a link -/

/-- The link events a line expands to (R82). A line without a prefix addresses the only instance, which is end A here. -/
def Link.expand (l : Link) : Line → Option (List LinkEvent)
  | .event inst e => some [.input (inst.getD .a) e.input]
  | .xfer src => l.xfer src
  | .drop src => l.dropDatagram src
  | .lose src => l.loseDatagram src
  | .waitFire e => l.waitFireAt e

/-- The lines of a program in step order. `none` where a line is ill-formed or the transport holds no such datagram. -/
def Link.runLines : List Line → Link → Option (Host.Outcome Link Fault Refusal)
  | [], l => some (.next l)
  | line :: lines, l =>
    match l.expand line with
    | none => none
    | some es =>
      match Link.applyAll es l with
      | none => none
      | some (.next l') => Link.runLines lines l'
      | some (.fault r) => some (.fault r)
      | some (.refused r) => some (.refused r)

/-- Two instances after reset, with nothing in the transport. -/
def Link.reset : Link where
  a := State.reset
  b := State.reset
  toA := []
  toB := []

end Sys2Proof.Machine
end

