-- ==== Sys2Proof/Tests/Slice0.lean ====
section
/-! SUPPORT. The model's own tests. Expected results are those of 95_test_vectors.md (the vector's id stands with the test) or of
the rule's worked example. After them, one witness for each obligation that has hypotheses: a concrete state and operands
that meet them all, and each clause. -/

namespace Sys2Proof.Tests

open Sys2Proof Sys2Proof.Machine

/-- A reading of the next state, if there is one. -/
def after {α : Type} (o : Outcome) (f : State → α) : Option α :=
  match o with
  | .next s => some (f s)
  | .fault _ => none
  | .refused _ => none

/-- The fault, if the step stops with one. -/
def faultOf (o : Outcome) : Option Fault :=
  match o with
  | .next _ => none
  | .fault r => some r
  | .refused _ => none

/-- The decoded instruction, if there is one. -/
def decoded (o : HdrOrder) (i : Input) : Option Instr :=
  match decode o i with
  | .ok i => some i
  | .error _ => none

/-- Why an event was rejected. -/
def rejected (o : HdrOrder) (i : Input) : Option DecodeReject :=
  match decode o i with
  | .ok _ => none
  | .error r => some r

/-- The count DECODE accepts, or the reason it rejects. -/
def verdict (o : HdrOrder) (d : Bytes) : Option Int × Option HeaderReject :=
  match decodeHeader .x25 o d with
  | .ok c => (some c.toInt, none)
  | .error r => (none, some r)

/-! ### Decoding: one word of each row, bits written out from R76 to R78 -/

theorem test_decode_reserved0 : decodeTableWord 32 0b00000000000000000000000000000000 = some (.reserved0 0) := by decide
theorem test_decode_send : decodeTableWord 32 0b00010000000000000000000000000000 = some (.send []) := by decide
theorem test_decode_writeDone : decodeTableWord 32 0b00100000000000000000000000000000 = some .writeDone := by decide
theorem test_decode_rxDgram : decodeTableWord 32 0b00110000000000000000000000000000 = some (.rxDgram []) := by decide
theorem test_decode_xportError : decodeTableWord 32 0b01000000000000000000000000000111 = some (.xportError 7) := by decide
theorem test_decode_paceFire : decodeTableWord 32 0b01010000000000000000000000000000 = some .paceFire := by decide
theorem test_decode_setMsd : decodeTableWord 32 0b01100000000000000000000000000101 = some (.setMsd 5) := by decide
theorem test_decode_getMsd : decodeTableWord 32 0b01110000000000000000000000000000 = some .getMsd := by decide
theorem test_decode_setMss : decodeTableWord 32 0b10000000000000000000010101111000 = some (.setMss 1400) := by decide
theorem test_decode_getMss : decodeTableWord 32 0b10010000000000000000000000000000 = some .getMss := by decide
theorem test_decode_setDest :
    decodeTableWord 32 0b10100000000000000010001100101000 = some (.setDest ⟨0⟩ 9000) := by decide
theorem test_decode_bind_ok :
    decodeTableWord 32 0b10110000000000010010001100101000 = some (.bind ⟨0⟩ 9000 true) := by decide
theorem test_decode_bind_failed :
    decodeTableWord 32 0b10110000000000000010001100101000 = some (.bind ⟨0⟩ 9000 false) := by decide
theorem test_decode_isStreaming : decodeTableWord 32 0b11000000000000000000000000000000 = some .isStreaming := by decide
theorem test_decode_tick : decodeTableWord 32 0b11010000000000000000000000000000 = some (.tick 0) := by decide
theorem test_decode_reset : decodeTableWord 32 0b11100000000000000000000000000000 = some .reset := by decide
theorem test_decode_reservedF :
    decodeTableWord 32 0b11110000000000000000000000000001 = some (.reservedF 1) := by decide
/-- ENCODE(1) of §2.2, both byte orders. -/
theorem test_decode_header :
    decoded .be (.wire [0x00, 0x01, 0x1E, 0xCE]) = some (.header 0x0001 0x1ECE) ∧
    decoded .le (.wire [0x01, 0x00, 0x9F, 0x16]) = some (.header 0x0001 0x169F) := by decide
theorem test_decode_dataChunk : decodeTableWord 8 0b10101011 = some (.dataChunk [0xAB]) := by decide

/-- Side-channel operands are taken as given (R77, §6.1). -/
theorem test_decode_side_operands :
    decoded .be (.command 0x10000000 (.data [0x00, 0x01, 0x02])) = some (.send [0x00, 0x01, 0x02]) ∧
    decoded .be (.command 0xD0000000 (.time 17)) = some (.tick 17) ∧
    decoded .be (.command 0xA0002328 (.addr ⟨1⟩)) = some (.setDest ⟨1⟩ 9000) := by decide

/-- RF7, RF8, RF9 and RF10. -/
theorem test_reserved_words :
    rejected .be (.command 0x10010000 (.data [])) = some .flagNonzero ∧
    rejected .be (.command 0x10000001 (.data [])) = some .immNonzero ∧
    rejected .be (.command 0x60020005 .none) = some .rsvdNonzero ∧
    rejected .be (.command 0xB0012328 (.addr ⟨0⟩)) = none := by decide

/-- A word that came without its operand is rejected by name (log entry 6). -/
theorem test_missing_operand :
    rejected .be (.command 0x10000000 .none) = some .missingOperand ∧
    rejected .be (.command 0xD0000000 (.data [])) = some .missingOperand := by decide

/-- The lines of R81 assemble to the words R81 gives. -/
theorem test_program_lines :
    Event.input (.setMsd 5) = .command 0x60000005 .none ∧
    Event.input (.setMss 1400) = .command 0x80000578 .none ∧
    Event.input (.bind ⟨0⟩ 9000 true) = .command 0xB0012328 (.addr ⟨0⟩) ∧
    Event.input (.send (.inc 3 0)) = .command 0x10000000 (.data [0x00, 0x01, 0x02]) := by decide

/-! ### WellFormed: each check refuses an ill-formed term -/

/-- A 4-byte datagram is spelled `header` (R74). -/
theorem test_wf_refuses_four_byte_chunk : (Instr.dataChunk [0x00, 0x01, 0x02, 0x03]).wellFormed = false := by decide
/-- The check on n equal bytes. -/
theorem wellFormed_replicate (n : Nat) :
    (Instr.dataChunk (List.replicate n 0)).wellFormed = (decide (n ≤ 1400) && decide (n ≠ 4)) := by
  simp [Instr.wellFormed, Config.maxPayload, Config.headerLen]
/-- R73's bound. -/
theorem test_wf_refuses_oversize_chunk : (Instr.dataChunk (List.replicate 1401 0)).wellFormed = false := by
  rw [wellFormed_replicate]
  decide
theorem test_wf_accepts_largest_chunk : (Instr.dataChunk (List.replicate 1400 0)).wellFormed = true := by
  rw [wellFormed_replicate]
  decide

/-! ### Header Codec: §2.1 to §2.3 -/

theorem test_encode_be :
    encodeHeader .x25 .be 3 = [0x00, 0x03, 0x3D, 0xDC] ∧ encodeHeader .x25 .be 32767 = [0x7F, 0xFF, 0x73, 0x33] ∧
    encodeHeader .x25 .be 0 = [0x00, 0x00, 0x0F, 0x47] ∧ encodeHeader .x25 .be (-32768) = [0x80, 0x00, 0x83, 0x8B] := by
  decide +kernel
theorem test_encode_le :
    encodeHeader .x25 .le 3 = [0x03, 0x00, 0x2F, 0x25] ∧ encodeHeader .x25 .le 1000 = [0xE8, 0x03, 0x85, 0x1A] ∧
    encodeHeader .x25 .le (-2) = [0xFE, 0xFF, 0x27, 0xE6] := by decide +kernel
theorem test_decode_verdicts_be :
    verdict .be [0x7F, 0xFF, 0x73, 0x33] = (some 32767, none) ∧
    verdict .be [0x00, 0x01, 0xCE, 0x1E] = (none, some .crcMismatch) ∧
    verdict .be [0x00, 0x00, 0x0F, 0x47] = (none, some .nonpositive) ∧
    verdict .be [0xFF, 0xFF, 0x00, 0x00] = (none, some .crcMismatch) := by decide +kernel
theorem test_decode_verdicts_le :
    verdict .le [0x00, 0x01, 0xCE, 0x1E] = (some 256, none) ∧
    verdict .le [0xFF, 0xFF, 0xFF, 0xFF] = (none, some .nonpositive) ∧
    verdict .le [0x80, 0x00, 0x83, 0x8B] = (none, some .crcMismatch) := by decide +kernel
/-- §2.5: BE headers an LE receiver accepts as another count, and the one it reads as itself. -/
theorem test_mixed_order :
    encodeHeader .x25 .be 53 = [0x00, 0x35, 0x69, 0x69] ∧ verdict .le [0x00, 0x35, 0x69, 0x69] = (some 13568, none) ∧
    verdict .le (encodeHeader .x25 .be 28270) = (some 28270, none) := by decide +kernel

/-! ### Values: §3.2 and §4.1 -/

theorem test_chunk_count :
    chunkCount .ceil 1500 1400 = 2 ∧ chunkCount .nearest 1500 1400 = 1 ∧ chunkCount .nearest 699 1400 = 0 ∧
    chunkCount .nearest 700 1400 = 1 ∧ chunkCount .nearest 2099 1400 = 1 ∧ chunkCount .nearest 2100 1400 = 2 ∧
    chunkCount .ceil 45874401 1400 = 32768 ∧ chunkCount .nearest 45874401 1400 = 32767 := by decide
/-- Rows of §4.1: MSD, LAST_TX, NOW and the deadline. -/
theorem test_arm_deadline :
    armDeadline { State.reset with msd := 5, lastTx := 0, now := 1 } = 5 ∧
    armDeadline { State.reset with msd := 5, lastTx := 5, now := 10 } = 10 ∧
    armDeadline { State.reset with msd := 5, lastTx := 5, now := 11 } = 11 ∧
    armDeadline { State.reset with msd := 100, lastTx := 50, now := 60 } = 150 := by decide

/-! ### Small states -/

/-- The peer's endpoint of the vectors. -/
def peer : EndpointReg := .set ⟨⟨1⟩, 9000⟩

/-- CLEAN with DEST = (PEER, 9000) (§3.1). -/
def idleSender : State := { State.reset with dest := peer }

/-- A sender with a chunk of two bytes in flight, at time 2. -/
def sending : State :=
  { State.reset with dest := peer, mss := 2, txbuf := [0x00, 0x01, 0x02], chunk := 2, inflight := .chunk 2, now := 2 }

/-- A sender whose header is in flight. -/
def announced : State := { sending with inflight := .hdr }

/-- A sender armed for time d. -/
def armed (d : U64) : State := { sending with inflight := .none, pace := .armed d }

/-- A bound receiver. -/
def receiver (r : S16) (b : Bytes) : State := { State.reset with bound := true, rem := r, rxbuf := b, now := 9 }

/-! ### Meanings -/

/-- S3. -/
theorem test_send_accepted :
    after (exec (.send (List.replicate 1500 0)) idleSender) (fun t => (t.chunk, t.inflight, t.outputs)) =
      some (1400, .hdr, [.tx peer [0x00, 0x02, 0x2C, 0x55]]) := by decide +kernel
/-- S8: dropped, not refused, with MSS = 0. -/
theorem test_send_dropped :
    after (exec (.send [0xFF]) { sending with mss := 0 }) (fun t => (t.txbuf, t.refused, t.outputs)) =
      some ([0x00, 0x01, 0x02], false, [.sent]) := by decide

/-- W2's shape: the confirmed chunk leaves, and the scheduler is armed at LAST_TX + MSD or later. -/
theorem test_writeDone_arms :
    after (exec .writeDone sending) (fun t => (t.txbuf, t.inflight, t.pace)) = some ([0x02], .none, .armed 2) := by decide
/-- W3 and W4. -/
theorem test_writeDone_ends :
    after (exec .writeDone { sending with txbuf := [0x02], inflight := .chunk 1 }) (fun t => (t.txbuf, t.pace, t.outputs)) =
      some ([], .idle, [.sent]) ∧
    faultOf (exec .writeDone State.reset) = some .writeDoneNoMove := by decide

/-- RX2: in ACCUM(2) a header is appended as data and restarts the count. -/
theorem test_rxDgram_restart :
    after (exec (.rxDgram [0x00, 0x01, 0x1E, 0xCE]) (receiver 2 [])) (fun t => (t.rem, t.rxbuf, t.rxTs, t.outputs)) =
      some (1, [0x00, 0x01, 0x1E, 0xCE], 9, []) := by decide +kernel
/-- RX7: completion, then a rejected header. -/
theorem test_rxDgram_completes :
    after (exec (.rxDgram [0x00, 0x00, 0x0F, 0x47]) (receiver 0 [0x11])) (fun t => (t.rem, t.rxbuf, t.outputs)) =
      some (0, [], [.readyBytes [0x11], .decodeReq [0x11],
        .log (.headerReject .nonpositive [0x00, 0x00, 0x0F, 0x47])]) := by decide +kernel

/-- X1, and REM = −1. -/
theorem test_xportError :
    after (exec (.xportError 7) sending) (fun t => (t.txbuf, t.inflight, t.rem.toInt, t.mss, t.outputs)) =
      some ([], .none, -1, 2, [.log (.transportError 7)]) := by decide
/-- X2. -/
theorem test_xportError_cancels_task :
    after (exec (.xportError 0) (armed 12)) (fun t => t.pace) = some .idle := by decide

/-- P4 line 8. -/
theorem test_paceFire :
    after (exec .paceFire (armed 2)) (fun t => (t.txbuf, t.inflight, t.lastTx, t.pace, t.outputs)) =
      some ([0x00, 0x01, 0x02], .chunk 2, 2, .idle, [.tx peer [0x00, 0x01]]) := by decide
/-- V3: below the deadline there is no move. -/
theorem test_paceFire_early : faultOf (exec .paceFire (armed 3)) = some .paceFireNoMove := by decide

theorem test_setMsd : after (exec (.setMsd 65535) (armed 3)) (fun t => (t.msd, t.pace)) = some (65535, .armed 3) := by decide
theorem test_getMsd :
    after (exec .getMsd { State.reset with msd := 65535 }) (fun t => t.outputs) = some [.ret (.word 65535)] := by decide
/-- The chunk size of the stream in progress stays (R100). -/
theorem test_setMss : after (exec (.setMss 15360) sending) (fun t => (t.mss, t.chunk)) = some (15360, 2) := by decide
/-- The stored value, not the effective chunk size (R153). -/
theorem test_getMss :
    after (exec .getMss { State.reset with mss := 2000 }) (fun t => t.outputs) = some [.ret (.word 2000)] := by decide
theorem test_setDest : after (exec (.setDest ⟨1⟩ 9000) State.reset) (fun t => (t.dest, t.outputs)) = some (peer, []) := by decide
/-- CF1. -/
theorem test_bind_failed :
    after (exec (.bind ⟨0⟩ 9000 false) State.reset) (fun t => (t.localEp, t.bound, t.outputs)) =
      some (.set ⟨⟨0⟩, 9000⟩, false, [.log (.bindFailure ⟨⟨0⟩, 9000⟩)]) := by decide
/-- CF6: a held stream survives a rebind. -/
theorem test_bind_ok :
    after (exec (.bind ⟨0⟩ 9001 true) { receiver 0 [0xAB] with bound := false }) (fun t => (t.bound, t.rxbuf, t.outputs)) =
      some (true, [0xAB], []) := by decide
theorem test_isStreaming :
    after (exec .isStreaming sending) (fun t => t.outputs) = some [.ret (.flag true)] ∧
    after (exec .isStreaming State.reset) (fun t => t.outputs) = some [.ret (.flag false)] := by decide
/-- §6.2: TICK 5, TICK 5 again, and TICK 3 after it. -/
theorem test_tick :
    after (exec (.tick 5) State.reset) (fun t => t.now) = some 5 ∧
    after (exec (.tick 5) { State.reset with now := 5 }) (fun t => t.now) = some 5 ∧
    faultOf (exec (.tick 3) { State.reset with now := 5 }) = some .tickNoMove := by decide
/-- T1's RESET: the stream is lost and nothing is emitted. -/
theorem test_reset :
    after (exec .reset { sending with msd := 7, refused := true })
        (fun t => (t.msd, t.txbuf, t.now, t.refused, t.outputs)) =
      some (1, [], 0, false, []) := by decide
/-- RF5 and RF6. -/
theorem test_reserved_ops :
    after (exec (.reserved0 0) sending) (fun t => (t.refused, t.refusals, t.txbuf)) =
      some (true, [.reservedCmd], [0x00, 0x01, 0x02]) ∧
    after (exec (.reservedF 0) sending) (fun t => (t.refused, t.refusals, t.txbuf)) =
      some (true, [.reservedCmd], [0x00, 0x01, 0x02]) := by decide
/-- A wire header, BE and LE: IDLE to ACCUM(1). -/
theorem test_header :
    after (exec (.header 1 0x1ECE) (receiver 0 [])) (fun t => (t.rem, t.rxbuf)) = some (1, []) ∧
    after (exec (.header 1 0x169F)
        { receiver 0 [] with params := { Params.default with hdrOrder := .le } }) (fun t => t.rem) = some 1 := by
  decide +kernel
/-- RX6 and RX10: a chunk, and a zero-length one. -/
theorem test_dataChunk :
    after (exec (.dataChunk [0x11, 0x22]) (receiver 1 [])) (fun t => (t.rem, t.rxbuf)) = some (0, [0x11, 0x22]) ∧
    after (exec (.dataChunk []) (receiver 3 [])) (fun t => (t.rem, t.rxbuf)) = some (2, []) := by decide

/-! ### The step -/

/-- The next step runs the placed word, as the first instruction after reset. -/
theorem test_withFetchWord :
    after (step (State.reset.withFetchWord 32 0x60000005)) (fun t => (t.msd, t.pending)) = some (5, []) := by decide
/-- RF9: a word with RSVD ≠ 0 is refused before its operation's semantics. -/
theorem test_step_reserved_word :
    after (step (State.reset.withFetchWord 32 0x60020005)) (fun t => (t.msd, t.refused)) = some (1, true) := by decide
/-- A loaded program: P4's first two lines. -/
theorem test_loadProgram :
    after (andThen (step (loadProgram [.setMss 2, .setMsd 0] State.reset)) step) (fun t => (t.mss, t.msd, t.pending)) =
      some (2, 0, []) := by decide

/-! ### Runs and links -/

/-- W1's deadline, waited for and fired: WAITFIRE ticks to 3. -/
theorem test_waitFire : waitFire (armed 3) = some [.tick 3, .paceFire] ∧ waitFire sending = none := by decide

/-- A link whose transport holds one datagram of A's. -/
def oneDatagram : Link :=
  { a := announced, b := receiver 0 [], toA := [], toB := [.issued [0x00, 0x02, 0x2C, 0x55]] }

/-- XFER A->B: B takes the header, and A's write is confirmed (P1 line 7). -/
theorem test_xfer :
    (Link.runLines [.xfer .a] oneDatagram).map (fun
      | .next l => some (l.b.rem, l.a.pace, l.toB)
      | .fault _ => none
      | .refused _ => none) = some (some (2, .armed 2, [])) := by decide +kernel
/-- LOSE A: the datagram is gone, and neither end moves. -/
theorem test_lose :
    (Link.runLines [.lose .a] oneDatagram).map (fun
      | .next l => some (l.b.rem, l.a.inflight, l.toB)
      | .fault _ => none
      | .refused _ => none) = some (some (0, .hdr, [])) := by decide

/-- A datagram delivered and kept has reached B: it is not the next to transfer, but may arrive again (R62, R82, R216). -/
theorem test_deliver_keeps :
    (oneDatagram.applyAll [.deliver .b 0 true, .deliver .b 0 true]).map (fun
      | .next l => some (l.b.rxbuf, l.oldest .b, l.toB.map Transit.delivered)
      | .fault _ => none
      | .refused _ => none) = some (some ([0x00, 0x02, 0x2C, 0x55], none, [true])) := by decide +kernel

/-! ### Program text (R81, R82) -/

theorem test_parse_events :
    parseLine "SET_MSD 5" = some (.event none (.setMsd 5)) ∧
    parseLine "B: BIND ANY 9000 ok=1 ; comment" = some (.event (some .b) (.bind (addrOf "ANY".toList) 9000 true)) ∧
    parseLine "RX hex\"00 01 1E CE\"" = some (.event none (.rx (.hex [0x00, 0x01, 0x1E, 0xCE]))) ∧
    parseLine "A: SEND 10:inc+160" = some (.event (some .a) (.send (.inc 10 160))) ∧
    parseLine "A: SEND 3:fill=AA" = some (.event (some .a) (.send (.fill 3 0xAA))) := by decide +kernel
theorem test_parse_harness :
    parseLine "XFER A->B" = some (.xfer .a) ∧ parseLine "WAITFIRE A" = some (.waitFire .a) ∧
    parseLine "LOSE A" = some (.lose .a) := by decide +kernel
/-- No line: an immediate above 16 bits, an unknown event, a bad hexadecimal digit. -/
theorem test_parse_refuses :
    parseLine "SET_MSS 65536" = none ∧ parseLine "FLUSH" = none ∧ parseLine "RX hex\"0G\"" = none := by decide +kernel

/-! ### Witnesses -/

theorem idle_control {s : State} (h1 : s.txbuf = []) (h2 : s.inflight = .none) (h3 : s.pace = .idle) : SenderControl s :=
  ⟨fun _ => ⟨h2, h3⟩, fun h => absurd h1 h⟩
theorem outstanding_control {s : State} (h1 : s.txbuf ≠ []) (h2 : s.inflight ≠ .none) (h3 : s.pace = .idle) :
    SenderControl s := ⟨fun h => absurd h h1, fun _ => .inl ⟨h2, h3⟩⟩
theorem reset_control : SenderControl State.reset := idle_control rfl rfl rfl
theorem idleSender_control : SenderControl idleSender := idle_control rfl rfl rfl
theorem sending_control : SenderControl sending := outstanding_control (by decide) (by decide) rfl
theorem armed_control (d : U64) : SenderControl (armed d) := by simp [SenderControl, armed, sending]

theorem reset_accepts (d : Bytes) (h : d.length = 1) : Accepts State.reset d := by
  refine ⟨by intro hd; simp [hd] at h, rfl, by decide, by rw [h]; decide, by intro cap hc; cases hc⟩

theorem witness_DecodeUndoesEncode :
    (Instr.header 0xFFFF 0xFFFF).wellFormed = true ∧ (Instr.dataChunk []).wellFormed = true ∧
    (Instr.bind ⟨0⟩ 0xFFFF true).wellFormed = true := by decide

theorem witness_ReservedWordsRefused :
    (offerInput (.command 0x0FFFFFFF .none) State.reset).pending = .command 0x0FFFFFFF .none :: [] ∧
    (0x0FFFFFFF : Word).extractLsb' 28 4 = 0x0 ∧ (0xF0000000 : Word).extractLsb' 28 4 = 0xF ∧
    (0x60020000 : Word).extractLsb' 17 11 ≠ 0 ∧
    ((0xA0010000 : Word).getLsbD 16 = true ∧ (0xA0010000 : Word).extractLsb' 28 4 ≠ 0xB) ∧
    ((0xE0000001 : Word).extractLsb' 0 16 ≠ 0 ∧
      (0xE0000001 : Word).extractLsb' 28 4 ∈ ([0x1, 0x2, 0x3, 0x5, 0x7, 0x9, 0xC, 0xD, 0xE] : List (BitVec 4))) ∧
    (0x20000000 : Word).extractLsb' 28 4 ∈ ([0x2, 0x4, 0x5, 0x6, 0x7, 0x8, 0x9, 0xC, 0xE] : List (BitVec 4)) := by decide

theorem witness_DatagramClassifiedByLength :
    ([0, 0, 0, 0] : Bytes).length = 4 ∧ ([0, 0, 0] : Bytes).length ≠ 4 ∧ ([0, 0, 0, 0, 0] : Bytes).length ≠ 4 := by decide

theorem witness_StepRunsDecodedInstruction :
    ∃ (s : State) (e : Input) (rest : List Input) (i : Instr), s.pending = e :: rest ∧
      decode s.params.hdrOrder e = .ok i ∧ i.wellFormed = true :=
  ⟨offerInput (.command 0x60000005 .none) State.reset, _, _, .setMsd 5, rfl, rfl, rfl⟩

theorem witness_StepIdlesWithoutInput : State.reset.pending = [] := rfl

/-- Each clause at the boundary of the sign test: count fields 0 and 1. -/
theorem witness_DecodeTestsChecksumThenSign :
    (0x1ECF : U16) ≠ crc16 .x25 ((headerBytes .be 0x0001 0x1ECF).take 2) ∧
    ((0x0F47 : U16) = crc16 .x25 ((headerBytes .be 0x0000 0x0F47).take 2) ∧ (0x0000 : U16).toInt ≤ 0) ∧
    ((0x1ECE : U16) = crc16 .x25 ((headerBytes .be 0x0001 0x1ECE).take 2) ∧ 0 < (0x0001 : U16).toInt) := by decide +kernel

theorem witness_HeaderRoundTrip :
    (1 ≤ (1 : S16).toInt ∧ (1 : S16).toInt ≤ 32767) ∧ (1 ≤ (32767 : S16).toInt ∧ (32767 : S16).toInt ≤ 32767) := by decide

theorem witness_SingleBitFlipRejected :
    ∃ (c : S16) (byte bit : Nat), 1 ≤ c.toInt ∧ c.toInt ≤ 32767 ∧ byte < 4 ∧ bit < 8 :=
  ⟨32767, 3, 7, by decide⟩

theorem witness_AcceptedHeadersAreEncodings :
    ([0x7F, 0xFF, 0x73, 0x33] : Bytes).length = 4 ∧ verdict .be [0x7F, 0xFF, 0x73, 0x33] = (some 32767, none) ∧
    ([0x00, 0x00, 0x0F, 0x47] : Bytes).length = 4 := by decide +kernel

theorem replicate_ne_nil (n : Nat) : List.replicate (n + 1) (0 : Byte) ≠ [] := by simp

/-- S11: the count is exactly 32767. -/
theorem witness_AcceptedSendIssuesHeader : Accepts { State.reset with mss := 1 } (List.replicate 32767 0) := by
  refine ⟨replicate_ne_nil 32766, rfl, by decide, ?_, by intro cap hc; cases hc⟩
  rw [List.length_replicate]
  decide

theorem witness_DroppedSendOnlyEmitsSent : ([] : Bytes) = [] ∧ sending.txbuf ≠ [] := by decide

/-- S10, S12 and S17: one input to each clause, each at its boundary. -/
theorem witness_SendRefusedInOrder :
    (∃ (s : State) (data : Bytes), data ≠ [] ∧ s.txbuf = [] ∧ s.mss = 0) ∧
    (∃ (s : State) (data : Bytes), data ≠ [] ∧ s.txbuf = [] ∧ s.mss ≠ 0 ∧
      32767 < chunkCount s.params.countMode data.length (min 1400 s.mss.toNat)) ∧
    (∃ (s : State) (data : Bytes) (cap : Nat), data ≠ [] ∧ s.txbuf = [] ∧ s.mss ≠ 0 ∧
      chunkCount s.params.countMode data.length (min 1400 s.mss.toNat) ≤ 32767 ∧
      s.params.bufCap = some cap ∧ cap < data.length) := by
  refine ⟨⟨{ State.reset with mss := 0 }, [0x00], by decide⟩,
    ⟨{ State.reset with mss := 1 }, List.replicate 32768 0, replicate_ne_nil 32767, rfl, by decide, ?_⟩,
    ⟨{ State.reset with params := { Params.default with bufCap := some 100 } }, List.replicate 101 0, 100,
      replicate_ne_nil 100, rfl, by decide, ?_, rfl, ?_⟩⟩
  all_goals rw [List.length_replicate]
  all_goals decide

/-- Both conditions on the last chunk, at the tie. -/
theorem witness_NearestUnderCountsByOne :
    (0 < 2099 % 1400 ∧ 2 * (2099 % 1400) < 1400) ∧ 1400 ≤ 2 * (2100 % 1400) ∧ 2800 % 1400 = 0 := by decide

/-- No write outstanding; the last chunk confirmed; a header and a chunk confirmed with the last deadline that fits. -/
theorem witness_WriteDoneConfirmsAndArms :
    (∃ s : State, s.inflight = .none) ∧
    (∃ s : State, s.inflight = .chunk 1 ∧ [] = s.txbuf.drop 1 ∧ s.txbuf ≠ []) ∧
    (∃ s : State, s.inflight = .hdr ∧ s.txbuf ≠ [] ∧
      max s.now.toNat (s.lastTx.toNat + s.msd.toNat) = 2 ^ 64 - 1) ∧
    (∃ s : State, s.inflight = .chunk 2 ∧ s.txbuf.drop 2 ≠ [] ∧
      max s.now.toNat (s.lastTx.toNat + s.msd.toNat) = 2 ^ 64 - 1) :=
  ⟨⟨State.reset, rfl⟩, ⟨{ sending with txbuf := [0x02], inflight := .chunk 1 }, by decide⟩,
    ⟨{ announced with lastTx := 0xFFFFFFFFFFFFFFFE, now := 0xFFFFFFFFFFFFFFFE }, by decide⟩,
    ⟨{ sending with lastTx := 0xFFFFFFFFFFFFFFFE, now := 0xFFFFFFFFFFFFFFFF }, by decide⟩⟩

/-- The first deadline that does not fit, with a header and with a chunk in flight. -/
theorem witness_DeadlineBeyondTimeBaseIsFree :
    (∃ s : State, s.inflight = .hdr ∧ s.txbuf ≠ [] ∧ max s.now.toNat (s.lastTx.toNat + s.msd.toNat) = 2 ^ 64) ∧
    (∃ s : State, s.inflight = .chunk 2 ∧ s.txbuf.drop 2 ≠ [] ∧
      max s.now.toNat (s.lastTx.toNat + s.msd.toNat) = 2 ^ 64) :=
  ⟨⟨{ announced with lastTx := 0xFFFFFFFFFFFFFFFF, now := 0xFFFFFFFFFFFFFFFF }, by decide⟩,
    ⟨{ sending with lastTx := 0xFFFFFFFFFFFFFFFF, now := 0xFFFFFFFFFFFFFFFF }, by decide⟩⟩

theorem witness_PaceFireIssuesNextSlice :
    ((armed 2).pace = .armed 2 ∧ (2 : U64).toNat ≤ (armed 2).now.toNat) ∧ sending.pace = .idle ∧
    ((armed 3).pace = .armed 3 ∧ (armed 3).now.toNat < (3 : U64).toNat) := by decide

theorem witness_IssuedBytesConserved :
    ∃ (i : Instr) (s t : State), SenderControl s ∧ breaksStream i = false ∧ exec i s = .next t ∧ newOutputs s t ≠ [] :=
  ⟨.paceFire, armed 2, _, armed_control 2, rfl, rfl, by decide⟩

/-- One byte sent: header, its confirmation, the wait, the chunk, its confirmation. -/
theorem witness_StreamIsHeaderThenChunks :
    ∃ (s t : State) (data : Bytes) (is : List Instr), Accepts s data ∧ SenderControl s ∧ (∀ i ∈ is, breaksStream i = false) ∧
      execAll (.send data :: is) s = .next t ∧ t.txbuf = [] ∧ t.refused = false :=
  ⟨State.reset, _, [0x00], [.writeDone, .tick 1, .paceFire, .writeDone], reset_accepts _ rfl,
    reset_control, by decide, rfl, rfl, rfl⟩

theorem witness_AcceptedStreamCompletes :
    ∃ (s : State) (data : Bytes), Accepts s data ∧ SenderControl s ∧ s.refused = false ∧
      s.now.toNat + (chunkTotal data.length (min 1400 s.mss.toNat) + 1) * s.msd.toNat < 2 ^ 64 :=
  ⟨State.reset, [0x00], reset_accepts _ rfl, reset_control, rfl, by decide⟩

theorem witness_SentOnlyFromDropOrLastWrite :
    (∃ t, exec (.send []) State.reset = .next t ∧ .sent ∈ newOutputs State.reset t) ∧
    (∃ t, exec .writeDone { sending with txbuf := [0x02], inflight := .chunk 1 } = .next t ∧
      .sent ∈ newOutputs { sending with txbuf := [0x02], inflight := .chunk 1 } t) :=
  ⟨⟨_, rfl, by decide⟩, ⟨_, rfl, by decide⟩⟩

theorem witness_PaceFireStaysEnabled :
    ∃ (i : Instr) (s t : State) (d : U64), SenderControl s ∧ s.pace = .armed d ∧ d.toNat ≤ s.now.toNat ∧
      exec i s = .next t ∧ i ≠ .paceFire ∧
      (∀ info, i ≠ .xportError info) ∧ i ≠ .reset :=
  ⟨.tick 3, armed 2, _, 2, armed_control 2, rfl, by decide, rfl, by decide, (by intro e h; cases h), by decide⟩

theorem witness_PaceIdleOnlyByThree :
    ∃ (i : Instr) (s t : State) (d : U64), exec i s = .next t ∧ s.pace = .armed d ∧ t.pace = .idle :=
  ⟨.paceFire, armed 2, _, 2, rfl, rfl, rfl⟩

/-- SET_MSD and the tick to the deadline stand between the arm and the firing. -/
theorem witness_ConsecutiveDatagramsSpaced :
    ∃ (s a b t : State) (is : List Instr), SenderControl s ∧ s.lastTx.toNat ≤ s.now.toNat ∧ TimeHeadroom s ∧
      exec .writeDone s = .next a ∧
      a.txbuf ≠ [] ∧ execAll is a = .next b ∧
      (∀ i ∈ is, i ≠ .paceFire ∧ i ≠ .reset ∧ ∀ info, i ≠ .xportError info) ∧ exec .paceFire b = .next t ∧
      t.refused = false := by
  refine ⟨{ sending with msd := 5 }, _, _, _, [.setMsd 0, .tick 5], ?_, by decide, ?_, rfl, by decide, rfl, ?_, rfl, rfl⟩
  · exact outstanding_control (by decide) (by decide) rfl
  · show _ < _
    decide
  · simp

theorem witness_ArmedTaskBlocksNothing :
    ∃ (i : Instr) (s t : State), i ≠ .paceFire ∧ s.pace = .idle ∧ exec i s = .next t :=
  ⟨.writeDone, sending, _, by decide, rfl, rfl⟩

theorem witness_TickSetsNow :
    State.reset.now.toNat ≤ (0 : U64).toNat ∧ (1 : U64).toNat < sending.now.toNat := by decide

theorem witness_TimeNeverRunsBack : ∃ (i : Instr) (s t : State), exec i s = .next t ∧ i ≠ .reset :=
  ⟨.tick 3, sending, _, rfl, by decide⟩

/-- The four-byte datagrams of the table: v(c) and x. -/
theorem decode_verdicts :
    decodeHeader .x25 .be [0x00, 0x02, 0x2C, 0x55] = .ok 2 ∧
    decodeHeader .x25 .be [0x00, 0x01, 0x1E, 0xCF] = .error .crcMismatch := by
  decide +kernel

/-- Each way of delivery, each state of the table at a boundary of REM, each datagram class, and the largest datagram. -/
theorem witness_ReceiverTransitionTable :
    (receiver 0 []).bound = true ∧
    Delivers (.rxDgram []) .be [] ∧ Delivers (.dataChunk []) .be [] ∧
    Delivers (.header 0x0002 0x2C55) .be [0x00, 0x02, 0x2C, 0x55] ∧
    (List.replicate 1400 (0 : Byte)).length ≤ 1400 ∧
    ((receiver (-1) []).rem.toInt ≤ 0 ∧ (receiver (-1) []).rxbuf = []) ∧
    ((receiver 0 [0xAB]).rem = 0 ∧ (receiver 0 [0xAB]).rxbuf ≠ []) ∧ 0 < (receiver 1 []).rem.toInt ∧
    ([] : Bytes).length ≠ 4 ∧ decodeHeader .x25 .be [0x00, 0x02, 0x2C, 0x55] = .ok 2 ∧
    decodeHeader .x25 .be [0x00, 0x01, 0x1E, 0xCF] = .error .crcMismatch := by
  refine ⟨rfl, .inl rfl, .inr (.inl rfl), .inr (.inr ⟨_, _, rfl, rfl⟩), ?_, ?_, ?_, ?_, ?_, decode_verdicts⟩
  · rw [List.length_replicate]
  all_goals decide

/-- RX15 and RX17. -/
theorem witness_InboundDatagramRefused :
    (∃ (s : State) (i : Instr) (d : Bytes), s.bound = true ∧ Delivers i s.params.hdrOrder d ∧ 1400 < d.length) ∧
    (∃ (s : State) (i : Instr) (d : Bytes) (cap : Nat), s.bound = true ∧ Delivers i s.params.hdrOrder d ∧
      d.length ≤ 1400 ∧ s.params.bufCap = some cap ∧ 0 < s.rem.toInt ∧ cap < s.rxbuf.length + d.length) := by
  refine ⟨⟨receiver 0 [], .rxDgram (List.replicate 1401 0), List.replicate 1401 0, rfl, .inl rfl, ?_⟩,
    ⟨{ receiver 1 [0x01, 0x02, 0x03] with params := { Params.default with bufCap := some 4 } }, .dataChunk [0x04, 0x05],
      [0x04, 0x05], 4, rfl, .inr (.inl rfl), by decide, rfl, by decide, by decide⟩⟩
  rw [List.length_replicate]
  decide

theorem witness_EnvironmentDutiesHaveNoMove :
    State.reset.inflight = .none ∧ Delivers (.rxDgram []) .be [] ∧ State.reset.bound = false ∧
    (1 : U64).toNat < sending.now.toNat := ⟨rfl, .inl rfl, rfl, by decide⟩

theorem witness_OtherEventsAlwaysMove :
    ∃ (i : Instr) (s : State), i ≠ .writeDone ∧ i ≠ .paceFire ∧ (∀ t, i ≠ .tick t) ∧
      ∀ d, ¬ Delivers i s.params.hdrOrder d :=
  ⟨.send [0x00], sending, by decide, by decide, (by intro t h; cases h), (by intro d h; simp [Delivers] at h)⟩

theorem witness_ExpectedDatagramsAssemble :
    ∃ (s : State) (ds : List Bytes), s.bound = true ∧ s.refused = false ∧
      (∀ cap, s.params.bufCap = some cap → s.rxbuf.length + ds.flatten.length ≤ cap) ∧
      s.rem.toInt = ds.length ∧ (∀ d ∈ ds, d.length ≤ 1400 ∧ d.length ≠ 4) ∧ ds.length = 2 :=
  ⟨{ receiver 2 [] with params := { Params.default with bufCap := some 3 } }, [[0x01], [0x02, 0x03]], rfl, rfl,
    (by intro cap hc; cases hc; decide), rfl, by decide, rfl⟩

theorem witness_LosslessLinkReassembles :
    ∃ (a a' b : State) (data : Bytes) (is : List Instr), Accepts a data ∧ SenderControl a ∧ a.params.countMode = .ceil ∧
      (∀ i ∈ is, breaksStream i = false) ∧ execAll (.send data :: is) a = .next a' ∧ a'.txbuf = [] ∧ a'.refused = false ∧
      (∀ d ∈ chunksOf data (min 1400 a.mss.toNat), d.length ≠ 4) ∧ b.bound = true ∧
      (∀ cap, b.params.bufCap = some cap → data.length ≤ cap) ∧ b.params.crc = a.params.crc ∧
      b.params.hdrOrder = a.params.hdrOrder ∧ b.rem.toInt ≤ 0 ∧ b.rxbuf = [] ∧ b.refused = false :=
  ⟨State.reset, _, receiver (-1) [], [0x00], [.writeDone, .tick 1, .paceFire, .writeDone], reset_accepts _ rfl,
    reset_control, rfl, by decide, rfl, rfl, rfl, by decide, rfl,
    (by intro cap hc; cases hc), rfl, rfl, by decide, rfl, rfl⟩

theorem witness_ReadyBytesOnlyWhenPending :
    ∃ (i : Instr) (s t : State) (bytes : Bytes), exec i s = .next t ∧ Output.readyBytes bytes ∈ newOutputs s t :=
  ⟨.rxDgram [], receiver 0 [0xAB], _, [0xAB], rfl, by decide⟩

theorem witness_ConfigReadsBackLastWrite :
    ∃ (s t t' : State) (is : List Instr), (∀ i ∈ is, i ≠ .reset ∧ (∀ w, i ≠ .setMsd w) ∧ ∀ w, i ≠ .setMss w) ∧
      execAll (.setMsd 0xFFFF :: is) s = .next t ∧ t.refused = false ∧
      execAll (.setMss 0xFFFF :: is) s = .next t' ∧ t'.refused = false :=
  ⟨State.reset, _, _, [.xportError 0, .tick 1], by simp, rfl, rfl, rfl, rfl⟩

theorem witness_RefusalOnlySetsMark :
    (∃ t, exec (.send [0x00]) { State.reset with mss := 0 } = .next t ∧ t.refused = true) ∧
    (∃ t, exec .reset { sending with refused := true } = .next t) :=
  ⟨⟨_, rfl, rfl⟩, ⟨_, rfl⟩⟩

theorem witness_ResetMeetsInvariants : ∃ s : State, Clean s ∧ s.params.remReset = .minusOne :=
  ⟨State.powerOn { Params.default with remReset := .minusOne }, rfl, rfl⟩

/-- A run with a refusal that a RESET hides, one with neither, and one whose refusal shows. -/
theorem witness_NoRefusalReadOffAtTheEnd :
    (∃ t, runEvents [Event.input (.setMss 0), Event.input (.send (.inc 1 0)), Event.input .reset] State.reset = .next t ∧
      t.refused = false ∧ t.refusals ≠ State.reset.refusals) ∧
    (∃ t, runEvents [Event.input (.tick 1)] State.reset = .next t ∧ t.refused = false ∧
      t.refusals = State.reset.refusals ∧
      ∀ p ∈ trace [Event.input (.tick 1)] State.reset, tracedInstr p ≠ some .reset) ∧
    (∃ t, runEvents [.command 0x00000000 .none] State.reset = .next t ∧ t.refused = true) :=
  ⟨⟨_, rfl, rfl, by decide⟩, ⟨_, rfl, rfl, rfl, by decide⟩, ⟨_, rfl, rfl⟩⟩

/-- SET_DEST before SEND, and BIND before a datagram. -/
def launch : List Input :=
  [Event.input (.setDest ⟨1⟩ 9000), Event.input (.bind ⟨0⟩ 9000 true), Event.input (.rx (.hex [])),
    Event.input (.send (.inc 1 0))]

/-- Whether an instruction is a BIND the transport refuses. -/
def isFailedBind : Instr → Bool
  | .bind _ _ ok => !ok
  | _ => false

theorem witness_LaunchPremisesSuffice :
    ∃ (es : List Input) (s t : State) (e e' : Endpoint), Clean s ∧ NoRefusal es s ∧
      (∀ p ∈ trace es s, tracedInstr p ≠ some .reset) ∧
      (∀ p ∈ trace es s, ∀ a port, tracedInstr p ≠ some (.bind a port false)) ∧
      DestSet e es s ∧ RxReady e' es s ∧ runEvents es s = .next t ∧
      stateAtFirst isSend es s ≠ none ∧ stateAtFirst isDatagram es s ≠ none := by
  refine ⟨launch, State.reset, _, ⟨⟨1⟩, 9000⟩, ⟨⟨0⟩, 9000⟩, rfl, ?_, ?_, ?_, ?_, ?_, rfl, by decide, by decide⟩
  · show ∀ u ∈ runStates launch State.reset, u.refused = false
    decide +kernel
  · decide +kernel
  · intro p hp a port h
    have : ∀ p ∈ trace launch State.reset, (tracedInstr p).any isFailedBind = false := by decide +kernel
    simpa [h, isFailedBind] using this p hp
  · intro u hu
    cases hu
    rfl
  · intro u hu
    cases hu
    exact ⟨rfl, rfl⟩

theorem witness_StepKeepsInvariants :
    ∃ (s t : State), Invariants s ∧ step s = .next t ∧ t.pace = .armed 2 := by
  refine ⟨offerInput (.command 0x20000000 .none) sending, _, ⟨?_, ?_, ?_, ?_, ?_⟩, rfl, by decide⟩
  · exact outstanding_control (by decide) (by decide) rfl
  · simp [ChunkInFlight, offerInput, sending]
  · simp [ChunkLatched, offerInput, sending]
  · simp [ReceiverHeld, offerInput, sending, State.reset, State.powerOn, Params.default, RemReset.value]
  · simp [TimesOrdered, offerInput, sending, State.reset, State.powerOn]

theorem witness_ElementsWrittenOnlyByTheirOperations :
    ∃ (i : Instr) (s t : State), exec i s = .next t ∧ i ≠ .reset ∧ (∀ d, ¬ Delivers i s.params.hdrOrder d) ∧
      (∀ e, i ≠ .xportError e) ∧
      (∀ d, i ≠ .send d) :=
  ⟨.paceFire, armed 2, _, rfl, by decide, (by intro d h; simp [Delivers] at h), (by intro e h; cases h), (by intro d h; cases h)⟩

/-- A sender step, a datagram, and a step that writes both sides. -/
theorem witness_EnginesOwnTheirState :
    (∃ t, exec .paceFire (armed 2) = .next t) ∧
    (∃ t, exec (.rxDgram []) (receiver 1 []) = .next t) ∧
    (∃ t, exec (.xportError 0) { sending with rem := 1 } = .next t ∧ t.txbuf ≠ sending.txbuf ∧ t.rem ≠ 1) :=
  ⟨⟨_, rfl⟩, ⟨_, rfl⟩, ⟨_, rfl, by decide, by decide⟩⟩

theorem witness_OutputsOnlyAppended :
    ∃ (s t : State), step s = .next t ∧ t.outputs ≠ s.outputs :=
  ⟨offerInput (.command 0x50000000 .none) (armed 2), _, rfl, by decide⟩

theorem witness_ParametersNeverChange :
    (∃ (s t : State), step s = .next t ∧ s.params ≠ Params.default) ∧
    (∃ (l l' : Link) (ev : LinkEvent), LinkMode .ceil .be l ∧ l.apply ev = some (.next l') ∧ l'.b ≠ l.b) :=
  ⟨⟨offerInput (.command 0xE0000000 .none) { sending with params := { Params.default with countMode := .nearest } }, _, rfl,
    by decide⟩, ⟨oneDatagram, _, .input .b (Event.input (.setMsd 5)), ⟨⟨rfl, rfl⟩, ⟨rfl, rfl⟩⟩, rfl, by decide⟩⟩

/-- A link that is over though the transport keeps a delivered datagram, and one that is not, for an undelivered one. -/
theorem witness_OverExactlyWhenNothingToSend :
    (SenderControl idleSender ∧ idleSender.txbuf = []) ∧ (SenderControl sending ∧ sending.txbuf ≠ []) ∧
    LinkOver { Link.reset with toB := [{ data := [], delivered := true }] } ∧
    ¬ LinkOver { Link.reset with toB := [.issued []] } :=
  ⟨⟨idleSender_control, rfl⟩, ⟨sending_control, by decide⟩,
    ⟨⟨rfl, rfl⟩, ⟨rfl, rfl⟩, by decide⟩, fun h => absurd (h.2.2 _ List.mem_cons_self) (by decide)⟩

/-- An event at each end, a delivery that is kept and one that is not, and a loss. -/
theorem witness_LinkEndsShareNoState :
    (∃ l', oneDatagram.apply (.input .a (.command 0xC0000000 .none)) = some (.next l')) ∧
    (∃ l', oneDatagram.apply (.input .b (.command 0x10000000 (.data [0x00]))) = some (.next l') ∧ l'.toA ≠ []) ∧
    (∃ l', oneDatagram.apply (.deliver .b 0 true) = some (.next l')) ∧
    (∃ l', oneDatagram.apply (.deliver .b 0 false) = some (.next l')) ∧
    (∃ l', oneDatagram.apply (.lose .b 0) = some (.next l')) :=
  ⟨⟨_, rfl⟩, ⟨_, rfl, by decide⟩, ⟨_, rfl⟩, ⟨_, rfl⟩, ⟨_, rfl⟩⟩

end Sys2Proof.Tests
end

section
/-! PROOF. The statements about the block's scope (00_scope.md). -/

namespace Sys2Proof.Machine

/-- Settles O6: the step of a state with an event pending is `step_cons`, and the decoder's answer selects its accepting branch
(00_scope.md R12). -/
theorem stepRunsDecodedInstruction : Obligations.StepRunsDecodedInstruction := by
  intro s e rest i hpending hdecode
  rw [step_cons hpending, hdecode]
  rfl

end Sys2Proof.Machine
end

section
/-! SUPPORT. What an instruction can do, said once for all eighteen (`exec_effect`). The statements about what every step keeps
split along it. -/

namespace Sys2Proof.Machine

/-- The next states an instruction can give. A datagram's arrival is `receive`, whose cases `receive_next` lists. -/
inductive Effect (s : State) : Instr → State → Prop where
  | reserved0 (x : BitVec 28) : Effect s (.reserved0 x) (refuse .reservedCmd s)
  | reservedF (x : BitVec 28) : Effect s (.reservedF x) (refuse .reservedCmd s)
  | sendDropped {d : Bytes} (hn : d = [] ∨ s.txbuf ≠ []) : Effect s (.send d) (emit .sent s)
  | sendRefused {d : Bytes} {r : RefuseReason} (hd : d ≠ []) (hb : s.txbuf = []) (hr : sendRefusal s d = some r) :
      Effect s (.send d) (refuse r s)
  | sendAccepted {d : Bytes} (hd : d ≠ []) (hb : s.txbuf = []) (hr : sendRefusal s d = none) :
      Effect s (.send d) (acceptSend d s)
  | lastWriteDone (hw : s.inflight ≠ .none) (hb : (confirmWrite s).txbuf = []) :
      Effect s .writeDone (emit .sent (confirmWrite s))
  | writeDoneArms (hw : s.inflight ≠ .none) (hb : (confirmWrite s).txbuf ≠ []) :
      Effect s .writeDone (paceArm (confirmWrite s))
  | paceFire {d : U64} (hp : s.pace = .armed d) (hd : d.toNat ≤ s.now.toNat) : Effect s .paceFire (fireSlice s)
  | datagram {i : Instr} {d : Bytes} {t : State} (hi : Delivers i s.params.hdrOrder d) (h : receive d s = .next t) :
      Effect s i t
  | xportError (e : U16) : Effect s (.xportError e) (raise (.transportError e)
      { s with txbuf := [], inflight := .none, pace := .idle, rxbuf := [], rem := narrow16 (-1) })
  | setMsd (v : U16) : Effect s (.setMsd v) { s with msd := v }
  | setMss (v : U16) : Effect s (.setMss v) { s with mss := v }
  | setDest (a : Addr) (p : U16) : Effect s (.setDest a p) { s with dest := .set ⟨a, p⟩ }
  | bindOk (a : Addr) (p : U16) : Effect s (.bind a p true) { s with localEp := .set ⟨a, p⟩, bound := true }
  | bindFailed (a : Addr) (p : U16) : Effect s (.bind a p false)
      (raise (.bindFailure ⟨a, p⟩) { s with localEp := .set ⟨a, p⟩, bound := false })
  | getMsd : Effect s .getMsd (answer (.word s.msd) s)
  | getMss : Effect s .getMss (answer (.word s.mss) s)
  | isStreaming : Effect s .isStreaming (answer (.flag s.streaming) s)
  | tick {u : U64} (hu : s.now.toNat ≤ u.toNat) : Effect s (.tick u) { s with now := u }
  | reset : Effect s .reset { State.powerOn s.params with
      pending := s.pending, outputs := s.outputs, refusals := s.refusals, freeCount := s.freeCount }

/-- If an instruction answers a next state, it is one of its effects. -/
theorem exec_effect {i : Instr} {s t : State} (h : exec i s = .next t) : Effect s i t := by
  cases i with
  | reserved0 x => cases h; exact .reserved0 x
  | reservedF x => cases h; exact .reservedF x
  | send d =>
    obtain ⟨hn, rfl⟩ | ⟨hd, hb, ⟨r, hr, rfl⟩ | ⟨hr, rfl⟩⟩ := execSend_next h
    · exact .sendDropped hn
    · exact .sendRefused hd hb hr
    · exact .sendAccepted hd hb hr
  | writeDone =>
    obtain ⟨hw, ⟨hb, rfl⟩ | ⟨hb, rfl⟩⟩ := execWriteDone_next h
    · exact .lastWriteDone hw hb
    · exact .writeDoneArms hw hb
  | paceFire =>
    obtain ⟨d, hp, hd, rfl⟩ := execPaceFire_next h
    exact .paceFire hp hd
  | rxDgram d => exact .datagram (.inl rfl) h
  | dataChunk d => exact .datagram (.inr (.inl rfl)) h
  | header c k => exact .datagram (.inr (.inr ⟨c, k, rfl, rfl⟩)) h
  | xportError e => cases h; exact .xportError e
  | setMsd v => cases h; exact .setMsd v
  | setMss v => cases h; exact .setMss v
  | setDest a p => cases h; exact .setDest a p
  | bind a p ok =>
    obtain ⟨rfl, rfl⟩ | ⟨rfl, rfl⟩ := execBind_next h
    · exact .bindOk a p
    · exact .bindFailed a p
  | getMsd => cases h; exact .getMsd
  | getMss => cases h; exact .getMss
  | isStreaming => cases h; exact .isStreaming
  | tick u =>
    obtain ⟨hu, rfl⟩ := execTick_next h
    exact .tick hu
  | reset => cases h; exact .reset

end Sys2Proof.Machine
end

section
/-! SUPPORT. The invariants R40 to R44 (10_state.md) under each effect. -/

namespace Sys2Proof.Machine

/-! ### Effects that write none of the elements the invariants speak of -/

/-- The elements the invariants speak of. -/
def invariantElements (s : State) : Bytes × U16 × Inflight × U64 × Pace × S16 × Bytes × U64 × U64 :=
  (s.txbuf, s.chunk, s.inflight, s.lastTx, s.pace, s.rem, s.rxbuf, s.rxTs, s.now)

/-- The invariants speak of no other element. -/
theorem Invariants.congr {s t : State} (hs : Invariants s) (h : invariantElements t = invariantElements s) :
    Invariants t := by
  simp only [invariantElements, Prod.mk.injEq] at h
  obtain ⟨htx, hchunk, hinflight, hlast, hpace, hrem, hrx, hts, hnow⟩ := h
  constructor
  · simpa only [SenderControl, htx, hinflight, hpace] using hs.sender
  · simpa only [ChunkInFlight, hinflight, hchunk, htx] using hs.inflight
  · simpa only [ChunkLatched, htx, hchunk] using hs.latch
  · simpa only [ReceiverHeld, hrem, hrx] using hs.receiver
  · simpa only [TimesOrdered, hlast, hnow, hts, hpace] using hs.times

/-! ### The Sender Engine -/

/-- While a write is outstanding there is something to send and nothing armed (R40). -/
theorem SenderControl.of_outstanding {s : State} (hs : SenderControl s) (hw : s.inflight ≠ .none) :
    s.txbuf ≠ [] ∧ s.pace = .idle := by
  have hx : s.txbuf ≠ [] := fun hx => hw (hs.1 hx).1
  refine ⟨hx, ?_⟩
  rcases hs.2 hx with ⟨_, hp⟩ | ⟨hn, _⟩
  · exact hp
  · exact absurd hn hw

/-- The chunk size of a SEND that is not refused (R100, R102). -/
theorem chunkSize_bounds {s : State} {d : Bytes} (h : sendRefusal s d = none) :
    1 ≤ chunkSize s.mss ∧ chunkSize s.mss ≤ 1400 := by
  have hz : chunkSize s.mss ≠ 0 := fun hz => by simp [sendRefusal, hz] at h
  exact ⟨Nat.one_le_iff_ne_zero.mpr hz, Nat.min_le_left ..⟩

/-- Latching the chunk size loses nothing (R28). -/
theorem narrow16_chunkSize_toNat (mss : U16) : (narrow16 (chunkSize mss)).toNat = chunkSize mss := by
  have hle : chunkSize mss ≤ 1400 := Nat.min_le_left ..
  rw [narrow16_natCast, BitVec.toNat_ofNat, Nat.mod_eq_of_lt (by omega)]

theorem Invariants.acceptSend {s : State} {d : Bytes} (hs : Invariants s) (hd : d ≠ []) (hb : s.txbuf = [])
    (hr : sendRefusal s d = none) : Invariants (acceptSend d s) := by
  have hidle : s.pace = .idle := (hs.sender.1 hb).2
  obtain ⟨_, hts, _⟩ := hs.times
  exact {
    sender := ⟨fun h => absurd h hd, fun _ => .inl ⟨by simp, hidle⟩⟩
    inflight := by simp [ChunkInFlight]
    latch := fun _ => by simpa only [acceptSend_chunk, narrow16_chunkSize_toNat] using chunkSize_bounds hr
    receiver := hs.receiver
    times := ⟨le_rfl, hts, by simp [hidle]⟩ }

/-- The last write of a stream is confirmed: the sender is idle again. -/
theorem Invariants.lastWriteDone {s : State} (hs : Invariants s) (hw : s.inflight ≠ .none)
    (hb : (confirmWrite s).txbuf = []) : Invariants (emit .sent (confirmWrite s)) := by
  have hidle : s.pace = .idle := (hs.sender.of_outstanding hw).2
  exact {
    sender := ⟨fun _ => ⟨rfl, hidle⟩, fun h => absurd hb h⟩
    inflight := by simp [ChunkInFlight]
    latch := fun h => absurd hb h
    receiver := hs.receiver
    times := hs.times }

/-- A write before the last is confirmed: the scheduler is armed, at a deadline no earlier than the last issue. -/
theorem Invariants.writeDoneArms {s : State} (hs : Invariants s) (hw : s.inflight ≠ .none)
    (hb : (confirmWrite s).txbuf ≠ []) : Invariants (paceArm (confirmWrite s)) := by
  obtain ⟨hx, _⟩ := hs.sender.of_outstanding hw
  obtain ⟨hlast, hts, _⟩ := hs.times
  constructor
  · exact ⟨fun h => absurd (paceArm_txbuf _ ▸ h) hb, fun _ => .inr ⟨by simp, armAt_armed ..⟩⟩
  · simp [ChunkInFlight]
  · simpa [ChunkLatched] using fun _ => hs.latch hx
  · simpa [ReceiverHeld] using hs.receiver
  · refine ⟨by simpa using hlast, by simpa using hts, fun d hd => ?_⟩
    simpa using (paceArm_deadline_ge hd).2

/-- The next slice is issued: it is the front of TXBUF, of the latched size or what is left (R41). -/
theorem Invariants.fireSlice {s : State} {d : U64} (hs : Invariants s) (hp : s.pace = .armed d) :
    Invariants (fireSlice s) := by
  have hx : s.txbuf ≠ [] := (hs.sender.of_armed hp).1
  have hlen : 0 < s.txbuf.length := List.length_pos_iff.mpr hx
  obtain ⟨hmin, hmax⟩ := hs.latch hx
  obtain ⟨_, hts, _⟩ := hs.times
  have hslice : ChunkInFlight (Machine.fireSlice s) := by
    intro k hk
    simp only [fireSlice_inflight, Inflight.chunk.injEq, sliceLength] at hk
    simp only [fireSlice_chunk, fireSlice_txbuf]
    omega
  exact {
    sender := ⟨fun h => absurd h hx, fun _ => .inl ⟨by simp, rfl⟩⟩
    inflight := hslice
    latch := hs.latch
    receiver := hs.receiver
    times := ⟨le_rfl, hts, by simp⟩ }

/-! ### The time base, the error path and RESET -/

/-- With nothing held only REM's lower bound is to show: no `s16` is above 32767. -/
theorem ReceiverHeld.of_empty {s : State} (hb : s.rxbuf = []) (hr : -1 ≤ s.rem.toInt) : ReceiverHeld s := by
  have hlt : s.rem.toInt < 2 ^ 15 := BitVec.toInt_lt
  exact ⟨hr, by omega, fun _ => hb⟩

theorem Invariants.tick {s : State} {u : U64} (hs : Invariants s) (hu : s.now.toNat ≤ u.toNat) :
    Invariants { s with now := u } := by
  obtain ⟨hlast, hts, hdeadline⟩ := hs.times
  exact ⟨hs.sender, hs.inflight, hs.latch, hs.receiver, hlast.trans hu, hts.trans hu, hdeadline⟩

/-- XPORT_ERROR leaves both engines idle, with REM = −1 and nothing held. -/
theorem Invariants.xportError {s : State} (hs : Invariants s) (c : ErrorCond) :
    Invariants (raise c { s with txbuf := [], inflight := .none, pace := .idle, rxbuf := [], rem := narrow16 (-1) }) := by
  obtain ⟨hlast, hts, _⟩ := hs.times
  exact {
    sender := ⟨fun _ => ⟨rfl, rfl⟩, fun h => absurd rfl h⟩
    inflight := by simp [ChunkInFlight]
    latch := fun h => absurd rfl h
    receiver := .of_empty rfl (show -1 ≤ (narrow16 (-1)).toInt by decide)
    times := ⟨hlast, hts, by simp⟩ }

/-- Either choice of `REM_RESET` is in R43's range. -/
theorem remReset_ge (r : RemReset) : -1 ≤ r.value.toInt := by
  cases r <;> decide

/-- The state of R39 meets the invariants, whatever the parameters. -/
theorem powerOn_invariants (p : Params) : Invariants (State.powerOn p) where
  sender := ⟨fun _ => ⟨rfl, rfl⟩, fun h => absurd rfl h⟩
  inflight := by simp [ChunkInFlight]
  latch := fun h => absurd rfl h
  receiver := .of_empty rfl (remReset_ge _)
  times := ⟨le_rfl, le_rfl, by simp⟩

/-! ### The Receiver Engine -/

/-- Steps 1 and 2 of the receiver (R132, R133). -/
theorem Invariants.takeDatagram {s : State} (hs : Invariants s) (d : Bytes) : Invariants (takeDatagram d s) := by
  obtain ⟨_, hmax, _⟩ := hs.receiver
  obtain ⟨hlast, _, hdeadline⟩ := hs.times
  rcases takeDatagram_cases d s with ⟨hpos, e⟩ | ⟨_, _, e⟩ | ⟨_, _, e⟩ <;> rw [e]
  · have hrem : (s.rem - 1).toInt = s.rem.toInt - 1 := rem_sub_one_toInt hpos
    refine ⟨hs.sender, hs.inflight, hs.latch, ?_, hlast, le_rfl, hdeadline⟩
    rw [ReceiverHeld, accumulate_rem, hrem]
    omega
  · exact ⟨hs.sender, hs.inflight, hs.latch, .of_empty rfl (show -1 ≤ (0 : S16).toInt by decide), hs.times⟩
  · exact hs

/-- Step 3 of the receiver (R134): an accepted count is positive and fits `s16`. -/
theorem Invariants.recognise {s : State} (hs : Invariants s) (d : Bytes) : Invariants (recognise d s) := by
  obtain ⟨hlast, _, hdeadline⟩ := hs.times
  rcases recognise_cases d s with ⟨_, e⟩ | ⟨_, c, hc, e⟩ | ⟨_, r, _, e⟩ <;> rw [e]
  · exact hs
  · have hpos : 0 < c.toInt := decodeHeader_ok_pos hc
    have hlt : c.toInt < 2 ^ 15 := BitVec.toInt_lt
    refine ⟨hs.sender, hs.inflight, hs.latch, ?_, hlast, le_rfl, hdeadline⟩
    simp only [ReceiverHeld]
    omega
  · exact hs.congr rfl

theorem Invariants.receive {s t : State} {d : Bytes} (hs : Invariants s) (h : receive d s = .next t) : Invariants t := by
  obtain ⟨_, ⟨r, _, rfl⟩ | ⟨_, rfl⟩⟩ := receive_next h
  · exact hs.congr rfl
  · exact (hs.takeDatagram d).recognise d

/-! ### Every instruction -/

theorem Invariants.exec {i : Instr} {s t : State} (hs : Invariants s) (h : exec i s = .next t) : Invariants t := by
  cases exec_effect h with
  | sendAccepted hd hb hr => exact hs.acceptSend hd hb hr
  | lastWriteDone hw hb => exact hs.lastWriteDone hw hb
  | writeDoneArms hw hb => exact hs.writeDoneArms hw hb
  | paceFire hp _ => exact hs.fireSlice hp
  | datagram _ hr => exact hs.receive hr
  | xportError e => exact hs.xportError _
  | tick hu => exact hs.tick hu
  | reset => exact (powerOn_invariants s.params).congr rfl
  | reserved0 | reservedF | sendDropped | sendRefused | setMsd | setMss | setDest | bindOk | bindFailed | getMsd | getMss
  | isStreaming => exact hs.congr rfl

end Sys2Proof.Machine
end

section
/-! SUPPORT. What the parameters' constancy needs (10_state.md R45): the frame of a step, and the ends of a link under its events
(60_exceptions.md R189). -/

namespace Sys2Proof.Machine

/-- R45, for one instruction. -/
theorem exec_params {i : Instr} {s t : State} (h : exec i s = .next t) : t.params = s.params := by
  cases exec_effect h with
  | writeDoneArms => simp
  | datagram _ hr =>
    simp only [receive_frame hr]
  | reserved0 | reservedF | sendDropped | sendRefused | sendAccepted | lastWriteDone | paceFire | xportError | setMsd | setMss
  | setDest | bindOk | bindFailed | getMsd | getMss | isStreaming | tick | reset => rfl

/-- R45, for one step. -/
theorem step_params {s t : State} (h : step s = .next t) : t.params = s.params := by
  obtain ⟨_, rfl⟩ | ⟨_, rest, _, _, _, hexec⟩ | ⟨_, _, _, rfl⟩ := step_next h
  · rfl
  · exact exec_params (s := takeInput rest s) hexec
  · rfl

theorem Endpt.eq_or_eq_other (e f : Endpt) : f = e ∨ f = e.other := by
  cases e <;> cases f <;> decide

@[simp] theorem Link.at_discard (l : Link) (e f : Endpt) (n : Nat) : (l.discard e n).at f = l.at f :=
  Link.at_mapHeld ..
@[simp] theorem Link.at_keepDelivered (l : Link) (e f : Endpt) (n : Nat) : (l.keepDelivered e n).at f = l.at f :=
  Link.at_mapHeld ..

/-- An input event at an end is a step there, and what it issues goes to the other end's transit. -/
theorem Link.inputAt_next {l l' : Link} {e : Endpt} {i : Input} (h : l.inputAt e i = .next l') :
    ∃ t, step (offerInput i (l.at e)) = .next t ∧
      l' = (l.setAt e t).mapHeld e.other fun hs => hs ++ (txDatagrams (newOutputs (l.at e) t)).map Transit.issued := by
  unfold Link.inputAt at h
  split at h
  · rename_i t ht
    exact ⟨t, ht, by injection h with h; exact h.symm⟩
  · cases h
  · cases h

theorem Link.inputAt_params {l l' : Link} {e : Endpt} {i : Input} (h : l.inputAt e i = .next l') (f : Endpt) :
    (l'.at f).params = (l.at f).params := by
  obtain ⟨t, ht, rfl⟩ := Link.inputAt_next h
  rcases e.eq_or_eq_other f with rfl | rfl
  · simpa using step_params ht
  · simp

/-- R45, for one event of a link, at both ends. -/
theorem Link.apply_params {l l' : Link} {ev : LinkEvent} (h : l.apply ev = some (.next l')) (f : Endpt) :
    (l'.at f).params = (l.at f).params := by
  cases ev with
  | input e i => exact Link.inputAt_params (Option.some.inj h) f
  | deliver e n keep =>
    simp only [Link.apply] at h
    split at h
    · cases h
    · have hp := Link.inputAt_params (Option.some.inj h) f
      cases keep <;> simpa using hp
  | lose e n =>
    simp only [Link.apply] at h
    split at h
    · cases h
    · cases h
      simp

end Sys2Proof.Machine
end

section
/-! PROOF. The statements about the state (10_state.md). -/

namespace Sys2Proof.Machine

/-- Settles O54: the invariants under each effect of an instruction (`Invariants.exec`). A step that runs none, idle or on a
refused word, writes no element they speak of. -/
theorem stepKeepsInvariants : Obligations.StepKeepsInvariants := by
  intro s t hs h
  obtain ⟨_, rfl⟩ | ⟨_, rest, _, _, _, hexec⟩ | ⟨_, _, _, rfl⟩ := step_next h
  · exact hs
  · exact Invariants.exec (s := takeInput rest s) (hs.congr rfl) hexec
  · exact hs.congr rfl

/-- Settles O55: each effect of an instruction (`exec_effect`) leaves every element alone that its instruction does not write. -/
theorem elementsWrittenOnlyByTheirOperations : Obligations.ElementsWrittenOnlyByTheirOperations := by
  intro i s t h hreset
  cases exec_effect h with
  | datagram hi hr =>
    have hdelivers : ¬ ∀ d, ¬ Delivers i s.params.hdrOrder d := fun hn => hn _ hi
    simp [receive_frame hr, hdelivers]
  | reset => exact absurd rfl hreset
  | reserved0 | reservedF | sendDropped | sendRefused | sendAccepted | lastWriteDone | writeDoneArms | paceFire | xportError
  | setMsd | setMss | setDest | bindOk | bindFailed | getMsd | getMss | isStreaming | tick => simp

/-- Settles O31: TICK sets NOW no lower than it was, and no other instruction but RESET writes it (O55's last clause). -/
theorem timeNeverRunsBack : Obligations.TimeNeverRunsBack := by
  intro i s t h hreset
  obtain ⟨_, _, _, _, _, _, _, _, _, _, _, hnow⟩ := elementsWrittenOnlyByTheirOperations i s t h hreset
  refine ⟨?_, hnow⟩
  by_cases htick : ∃ u, i = .tick u
  · obtain ⟨u, rfl⟩ := htick
    obtain ⟨hu, rfl⟩ := execTick_next h
    exact hu
  · exact (congrArg BitVec.toNat (hnow fun u hu => htick ⟨u, hu⟩)).ge

/-- Settles O58: no step writes the parameters (`step_params`), and an event of a link is at most one step at one end. -/
theorem parametersNeverChange : Obligations.ParametersNeverChange := by
  refine ⟨fun _ _ => step_params, fun m o l l' ev hmode h => ?_⟩
  have hparams := Link.apply_params h
  have ha : l'.a.params = l.a.params := hparams .a
  have hb : l'.b.params = l.b.params := hparams .b
  simpa only [LinkMode, Mode, ha, hb] using hmode

/-- Settles O52: `State.reset` is `State.powerOn` under the defaults of R7. -/
theorem resetStateValues : Obligations.ResetStateValues := by
  unfold Obligations.ResetStateValues State.reset
  simp [Params.default, RemReset.value]

/-- Settles O53: a clean state has every element of the block as `State.powerOn` gives it. -/
theorem resetMeetsInvariants : Obligations.ResetMeetsInvariants := by
  refine ⟨powerOn_invariants _, fun s hclean => ⟨?_, ?_, ?_⟩⟩
  · exact (powerOn_invariants s.params).congr ((congrArg invariantElements hclean).trans rfl)
  · exact congrArg State.inflight hclean
  · exact congrArg State.pace hclean

end Sys2Proof.Machine
end

section
/-! SUPPORT. What the ownership of the engines' state needs (20_memory.md R67): the two sides of the state, overwritten, and how
each engine's operations go on an overwritten state. And that an instruction only adds outputs (R61). -/

namespace Sys2Proof.Machine

/-! ### The receiver's elements overwritten -/

/-- The receiver's elements take the given values. -/
def State.overwriteReceiver (r : S16) (b : Bytes) (x : U64) (s : State) : State :=
  { s with rem := r, rxbuf := b, rxTs := x }

/-- R103's no-op test. -/
theorem execSend_of_dropped {d : Bytes} {s : State} (h : d = [] ∨ s.txbuf ≠ []) : execSend d s = .next (emit .sent s) :=
  if_pos (by simpa only [List.length_eq_zero_iff, List.length_pos_iff] using h)

section
variable (r : S16) (b : Bytes) (x : U64)

/-- Arming reads none of the receiver's elements: the same branch of `armAt` is taken. -/
theorem paceArm_overwriteReceiver (s : State) :
    paceArm (s.overwriteReceiver r b x) = (paceArm s).overwriteReceiver r b x := by
  unfold paceArm armAt
  rw [apply_ite (State.overwriteReceiver r b x)]
  rfl

theorem execSend_overwriteReceiver {d : Bytes} {s t : State} (h : execSend d s = .next t) :
    execSend d (s.overwriteReceiver r b x) = .next (t.overwriteReceiver r b x) := by
  obtain ⟨hn, rfl⟩ | ⟨hd, hb, hcases⟩ := execSend_next h
  · exact execSend_of_dropped hn
  · rw [execSend_of_idle hd (show (s.overwriteReceiver r b x).txbuf = [] from hb),
      show sendRefusal (s.overwriteReceiver r b x) d = sendRefusal s d from rfl]
    obtain ⟨reason, hr, rfl⟩ | ⟨hr, rfl⟩ := hcases <;> rw [hr] <;> rfl

theorem execWriteDone_overwriteReceiver {s t : State} (h : execWriteDone s = .next t) :
    execWriteDone (s.overwriteReceiver r b x) = .next (t.overwriteReceiver r b x) := by
  obtain ⟨hw, hcases⟩ := execWriteDone_next h
  rw [execWriteDone_of_outstanding (show (s.overwriteReceiver r b x).inflight ≠ .none from hw)]
  obtain ⟨hb, rfl⟩ | ⟨hb, rfl⟩ := hcases
  · exact if_pos (List.length_eq_zero_iff.mpr hb)
  · rw [← paceArm_overwriteReceiver]
    exact if_neg (mt List.length_eq_zero_iff.mp hb)

theorem execPaceFire_overwriteReceiver {s t : State} (h : execPaceFire s = .next t) :
    execPaceFire (s.overwriteReceiver r b x) = .next (t.overwriteReceiver r b x) := by
  obtain ⟨d, hp, hd, rfl⟩ := execPaceFire_next h
  exact execPaceFire_of_enabled (s := s.overwriteReceiver r b x) hp hd

end

/-! ### The sender's elements overwritten -/

/-- The sender's elements take the given values. -/
def State.overwriteSender (b : Bytes) (w : Inflight) (p : Pace) (c : U16) (l : U64) (s : State) : State :=
  { s with txbuf := b, inflight := w, pace := p, chunk := c, lastTx := l }

/-- A datagram outside the domain of R131. -/
theorem receive_of_refused {d : Bytes} {s : State} {r : RefuseReason} (hb : s.bound = true) (hr : rxRefusal s d = some r) :
    receive d s = .next (refuse r s) := by
  simp [receive, State.rxEnabled, hb, hr]

section
variable (b : Bytes) (w : Inflight) (p : Pace) (c : U16) (l : U64)

/-- Steps 1 and 2 of the receiver (R132, R133) read none of the sender's elements. -/
theorem takeDatagram_overwriteSender (d : Bytes) (s : State) :
    takeDatagram d (s.overwriteSender b w p c l) = (takeDatagram d s).overwriteSender b w p c l := by
  unfold takeDatagram
  rw [apply_ite (State.overwriteSender b w p c l), apply_ite (State.overwriteSender b w p c l)]
  rfl

/-- Neither does step 3 (R134). -/
theorem recognise_overwriteSender (d : Bytes) (s : State) :
    recognise d (s.overwriteSender b w p c l) = (recognise d s).overwriteSender b w p c l := by
  unfold recognise
  rw [show (s.overwriteSender b w p c l).params = s.params from rfl]
  split
  · cases decodeHeader s.params.crc s.params.hdrOrder d with
    | ok count => rfl
    | error reason => rfl
  · rfl

theorem receive_overwriteSender {d : Bytes} {s t : State} (h : receive d s = .next t) :
    receive d (s.overwriteSender b w p c l) = .next (t.overwriteSender b w p c l) := by
  obtain ⟨hbound, ⟨reason, hr, rfl⟩ | ⟨hr, rfl⟩⟩ := receive_next h
  · exact receive_of_refused (s := s.overwriteSender b w p c l) hbound hr
  · rw [← recognise_overwriteSender, ← takeDatagram_overwriteSender]
    exact receive_of_accepted (s := s.overwriteSender b w p c l) hbound hr

end

/-! ### Who writes which side -/

/-- The arrival of a datagram writes none of the sender's elements. -/
theorem sender_unchanged_of_delivers {i : Instr} {s t : State} {d : Bytes} (h : exec i s = .next t)
    (hi : Delivers i s.params.hdrOrder d) :
    t.txbuf = s.txbuf ∧ t.inflight = s.inflight ∧ t.pace = s.pace ∧ t.chunk = s.chunk ∧ t.lastTx = s.lastTx := by
  obtain ⟨_, htx, hinflight, hpace, hchunk, hlast, _⟩ := receive_frame (exec_of_delivers hi ▸ h)
  exact ⟨htx, hinflight, hpace, hchunk, hlast⟩

/-- REM and RXBUF are written by a datagram's arrival, XPORT_ERROR and RESET alone (O55). -/
theorem writer_of_receiver_changed {i : Instr} {s t : State} (h : exec i s = .next t)
    (hrx : t.rem ≠ s.rem ∨ t.rxbuf ≠ s.rxbuf) :
    (∃ d, Delivers i s.params.hdrOrder d) ∨ (∃ e, i = .xportError e) ∨ i = .reset := by
  by_contra! ⟨hdelivers, herror, hreset⟩
  obtain ⟨_, _, _, _, _, _, _, _, _, hreceiver, _⟩ := elementsWrittenOnlyByTheirOperations i s t h hreset
  obtain ⟨hrem, hrxbuf⟩ := hreceiver hdelivers herror
  exact hrx.elim (· hrem) (· hrxbuf)

/-! ### The output sequence -/

/-- R61, for one instruction. -/
theorem exec_outputs_append {i : Instr} {s t : State} (h : exec i s = .next t) : ∃ os, t.outputs = s.outputs ++ os := by
  cases exec_effect h with
  | datagram _ hr =>
    obtain ⟨⟨os, hos, _⟩, _⟩ := receive_frame hr
    exact ⟨os, hos⟩
  | sendDropped | sendAccepted | lastWriteDone | paceFire | xportError | bindFailed | getMsd | getMss | isStreaming =>
    exact ⟨_, rfl⟩
  | reserved0 | reservedF | sendRefused | writeDoneArms | setMsd | setMss | setDest | bindOk | tick | reset =>
    exact ⟨[], by simp⟩

end Sys2Proof.Machine
end

section
/-! PROOF. The statements about the memory and the outputs (20_memory.md). -/

namespace Sys2Proof.Machine

/-- Settles O56: each engine's operations commute with overwriting the other's elements, and of the instructions that write the
receiver's (`writer_of_receiver_changed`) a datagram's arrival writes none of the sender's. -/
theorem enginesOwnTheirState : Obligations.EnginesOwnTheirState := by
  intro i s t h
  refine ⟨?_, ?_, ?_⟩
  · rintro (⟨d, rfl⟩ | rfl | rfl)
    · exact fun r b x => execSend_overwriteReceiver r b x h
    · exact fun r b x => execWriteDone_overwriteReceiver r b x h
    · exact fun r b x => execPaceFire_overwriteReceiver r b x h
  · rintro ⟨d, hi⟩ b w p c l
    rw [exec_of_delivers (s := { s with txbuf := b, inflight := w, pace := p, chunk := c, lastTx := l }) hi]
    exact receive_overwriteSender b w p c l (exec_of_delivers hi ▸ h)
  · intro htx hrx
    obtain ⟨d, hi⟩ | hboth := writer_of_receiver_changed h hrx
    · obtain ⟨hb, hw, hp, hc, hl⟩ := sender_unchanged_of_delivers h hi
      simp [hb, hw, hp, hc, hl] at htx
    · exact hboth

/-- Settles O57: an instruction only appends (`exec_outputs_append`), and a step that runs none, idle or on a refused word, emits
nothing. -/
theorem outputsOnlyAppended : Obligations.OutputsOnlyAppended := by
  intro s t h
  obtain ⟨_, rfl⟩ | ⟨_, rest, _, _, _, hexec⟩ | ⟨_, _, _, rfl⟩ := step_next h
  · exact ⟨[], by simp⟩
  · exact exec_outputs_append (s := takeInput rest s) hexec
  · exact ⟨[], by simp⟩

end Sys2Proof.Machine
end

section
/-! SUPPORT. What the decoder answers on an encoded instruction, on a reserved or illegal command word and on a datagram of four
bytes (30_encoding.md R71 to R79), and what a step does with a word that R79 refuses. -/

namespace Sys2Proof

/-! ### Command words -/

/-- A word of a reserved OP decodes by operand assembly, whatever its other bits hold (R79). -/
theorem decodeCommand_of_reservedOp {w : Word} (side : Side)
    (h : Op.ofCode (opField w) = .reserved0 ∨ Op.ofCode (opField w) = .reservedF) :
    decodeCommand w side = assemble (Op.ofCode (opField w)) w side := if_pos h

/-- A word of any other OP that fails a test of R79 is rejected for that test. -/
theorem decodeCommand_of_reservedTest {w : Word} {r : DecodeReject} (side : Side)
    (h : ¬(Op.ofCode (opField w) = .reserved0 ∨ Op.ofCode (opField w) = .reservedF))
    (ht : reservedTest (Op.ofCode (opField w)) w = some r) : decodeCommand w side = .error r := by
  simp only [decodeCommand, if_neg h, ht]

theorem decodeCommand_reservedWord {op : Op} (h : op = .reserved0 ∨ op = .reservedF) (x : BitVec 28) (side : Side) :
    decodeCommand (reservedWord op x) side = assemble op (reservedWord op x) side := by
  have hop : Op.ofCode (opField (reservedWord op x)) = op := by simp
  rw [decodeCommand_of_reservedOp side (by rwa [hop]), hop]

/-- A word fails R79's tests exactly when RSVD, F or IMM holds what its OP does not allow. -/
theorem reservedTest_ne_none_iff (op : Op) (w : Word) :
    reservedTest op w ≠ none ↔
      rsvdField w ≠ 0 ∨ (flagField w = true ∧ op ≠ .bind) ∨ (immField w ≠ 0 ∧ op.takesImm = false) := by
  unfold reservedTest
  split_ifs with hrsvd hflag himm
  · exact iff_of_true (by simp) (.inl hrsvd)
  · exact iff_of_true (by simp) (.inr (.inl hflag))
  · exact iff_of_true (by simp) (.inr (.inr himm))
  · exact iff_of_false (by simp) (not_or.mpr ⟨hrsvd, not_or.mpr ⟨hflag, himm⟩⟩)

/-- The tests of R79 never answer that an operand is missing. -/
theorem reservedTest_ne_missingOperand (op : Op) (w : Word) : reservedTest op w ≠ some .missingOperand := by
  unfold reservedTest
  split_ifs <;> simp

/-- The OPs that R79 lists as taking no IMM. -/
theorem takesImm_ofCode_eq_false {c : BitVec 4}
    (h : c ∈ ([0x1, 0x2, 0x3, 0x5, 0x7, 0x9, 0xC, 0xD, 0xE] : List (BitVec 4))) : (Op.ofCode c).takesImm = false := by
  revert c
  decide

/-- The OPs that R78's table gives no side-channel operand. -/
theorem zeroSide_ofCode_eq_none {c : BitVec 4}
    (h : c ∈ ([0x2, 0x4, 0x5, 0x6, 0x7, 0x8, 0x9, 0xC, 0xE] : List (BitVec 4))) : zeroSide (Op.ofCode c) = .none := by
  revert c
  decide

/-- Operand assembly of an OP that takes no side-channel operand reads none (R79). -/
theorem assemble_side_ignored {op : Op} (h : zeroSide op = .none) (w : Word) (side : Side) :
    assemble op w side = assemble op w .none := by
  cases op with
  | send | rxDgram | setDest | bind | tick => cases h
  | _ => rfl

theorem decodeCommand_side_ignored {w : Word} (h : zeroSide (Op.ofCode (opField w)) = .none) (side : Side) :
    decodeCommand w side = decodeCommand w .none := by
  simp only [decodeCommand, assemble_side_ignored h w side]

/-! ### Datagrams -/

theorem decodeDatagram_headerBytes (o : HdrOrder) (c k : U16) : decodeDatagram o (headerBytes o c k) = .header c k := by
  obtain ⟨b0, b1, hcBytes, hc⟩ := fieldBytes_eq o c
  obtain ⟨b2, b3, hkBytes, hk⟩ := fieldBytes_eq o k
  simp only [headerBytes, hcBytes, hkBytes, List.cons_append, List.nil_append, decodeDatagram_of_four, hc, hk]

/-- Four wire bytes are the bytes of the header whose fields they hold (R71, R74). -/
theorem headerBytes_fieldOf (o : HdrOrder) (b0 b1 b2 b3 : Byte) :
    headerBytes o (fieldOf o b0 b1) (fieldOf o b2 b3) = [b0, b1, b2, b3] := by
  simp only [headerBytes, fieldBytes_fieldOf, List.cons_append, List.nil_append]

end Sys2Proof

namespace Sys2Proof.Machine

/-- Every rejection but for a missing operand is the refusal of R79. -/
theorem reject_of_ne_missingOperand {r : DecodeReject} (h : r ≠ .missingOperand) (s : State) :
    reject r s = .next (refuse .reservedCmd s) := by
  cases r with
  | missingOperand => exact absurd rfl h
  | _ => rfl

/-- The step refuses a word of a reserved OP (R79). -/
theorem step_reservedOp {s : State} {w : Word} {side : Side} {rest : List Input}
    (hpending : s.pending = .command w side :: rest)
    (h : Op.ofCode (opField w) = .reserved0 ∨ Op.ofCode (opField w) = .reservedF) :
    step s = .next (refuse .reservedCmd (takeInput rest s)) := by
  rw [step_cons hpending, decode, decodeCommand_of_reservedOp side h]
  obtain hop | hop := h <;> (rw [hop]; rfl)

/-- The step refuses a word whose RSVD, F or IMM holds what its OP does not allow (R79), whichever its OP. -/
theorem step_illegalFields {s : State} {w : Word} {side : Side} {rest : List Input}
    (hpending : s.pending = .command w side :: rest)
    (h : rsvdField w ≠ 0 ∨ (flagField w = true ∧ Op.ofCode (opField w) ≠ .bind) ∨
      (immField w ≠ 0 ∧ (Op.ofCode (opField w)).takesImm = false)) :
    step s = .next (refuse .reservedCmd (takeInput rest s)) := by
  by_cases hreserved : Op.ofCode (opField w) = .reserved0 ∨ Op.ofCode (opField w) = .reservedF
  · exact step_reservedOp hpending hreserved
  · obtain ⟨r, ht⟩ := Option.ne_none_iff_exists'.mp ((reservedTest_ne_none_iff _ w).mpr h)
    have hr : r ≠ .missingOperand := fun hr => reservedTest_ne_missingOperand _ w (hr ▸ ht)
    rw [step_cons hpending, decode, decodeCommand_of_reservedTest side hreserved ht]
    exact reject_of_ne_missingOperand hr _

end Sys2Proof.Machine
end

section
/-! PROOF. The statements about the encoding (30_encoding.md). -/

namespace Sys2Proof.Machine

/-- Settles O2: a word of a reserved OP keeps its 28 bits, every other command word passes R79's tests and reads its fields back
(`decodeCommand_commandWord`), and a datagram is told apart by its length. -/
theorem decodeUndoesEncode : Obligations.DecodeUndoesEncode := by
  intro o i hwf
  cases i with
  | reserved0 x => simp [encode, decode, decodeCommand_reservedWord, assemble]
  | reservedF x => simp [encode, decode, decodeCommand_reservedWord, assemble]
  | header c k => exact congrArg Except.ok (decodeDatagram_headerBytes o c k)
  | dataChunk d =>
    have hlength : d.length ≠ 4 := of_decide_eq_true (Bool.and_elim_right hwf)
    exact congrArg Except.ok (decodeDatagram_of_ne o hlength)
  | _ =>
    rw [encode, decode, decodeCommand_commandWord]
    all_goals simp [assemble, Op.takesImm]

/-- Settles O3: a reserved OP is refused as an instruction (`step_reservedOp`), the other four cases fail a test of R79
(`step_illegalFields`), and an OP that takes no side-channel operand never reads one. -/
theorem reservedWordsRefused : Obligations.ReservedWordsRefused := by
  constructor
  · intro s w side rest hpending hcase
    obtain hop | hop | hrsvd | ⟨hflag, hop⟩ | ⟨himm, hop⟩ := hcase
    · exact step_reservedOp hpending (.inl ((Op.ofCode_eq_iff _ _).mpr hop))
    · exact step_reservedOp hpending (.inr ((Op.ofCode_eq_iff _ _).mpr hop))
    · exact step_illegalFields hpending (.inl hrsvd)
    · exact step_illegalFields hpending (.inr (.inl ⟨hflag, mt (Op.ofCode_eq_iff _ _).mp hop⟩))
    · exact step_illegalFields hpending (.inr (.inr ⟨himm, takesImm_ofCode_eq_false hop⟩))
  · intro o w side hop
    exact decodeCommand_side_ignored (zeroSide_ofCode_eq_none hop) side

/-- Settles O5: four bytes are the bytes of the header whose fields they hold (`headerBytes_fieldOf`), and any other length is data
(`decodeDatagram_of_ne`). -/
theorem datagramClassifiedByLength : Obligations.DatagramClassifiedByLength := by
  refine fun o d => ⟨fun hlength => ?_, fun hlength => congrArg Except.ok (decodeDatagram_of_ne o hlength)⟩
  obtain ⟨b0, b1, b2, b3, rfl⟩ := List.length_eq_four.mp hlength
  exact ⟨_, _, rfl, congrArg Input.wire (headerBytes_fieldOf o b0 b1 b2 b3)⟩

/-- Settles O1: the decoder evaluates to the named instruction on each written-out word and datagram. -/
theorem writtenWordsDecode : Obligations.WrittenWordsDecode := by
  unfold Obligations.WrittenWordsDecode
  decide

/-- Settles O4: `headerBytes` lists each field's two bytes in the order's sequence, and cutting out eight bits from bit 8 or bit 0 is
by definition the shift and the narrowing the statement writes. -/
theorem headerWireLayout : Obligations.HeaderWireLayout :=
  fun _ _ => ⟨rfl, rfl⟩

/-- Settles O47: each reserved OP's meaning is the refusal alone, and reads none of the other 28 bits. -/
theorem reservedOpsRefused : Obligations.ReservedOpsRefused :=
  fun _ _ => ⟨rfl, rfl⟩

end Sys2Proof.Machine
end

section
/-! SUPPORT. CRC-16/X-25 tells any two inputs apart that differ in one byte, and what DECODE answers on a header's fields and on an
encoded header (40_header_codec.md R90 to R95). -/

namespace Sys2Proof.Machine

/-! ### The checksum -/

/-- The bit step of R90 loses nothing: where it shifts a 1 out, the polynomial's top bit is set in the result. -/
theorem crcBit_eq_zero {r : U16} (h : crcBit r = 0) : r = 0 := by
  unfold crcBit at h
  split_ifs at h with hlow
  · have htop := congrArg (·.getLsbD 15) h
    simp at htop
  · have hlow' : r.getLsbD 0 = false := by simpa using hlow
    ext i hi
    cases i with
    | zero => simpa using hlow'
    | succ i =>
      have hbit := congrArg (·.getLsbD i) h
      simpa [Nat.add_comm 1 i, BitVec.getLsbD_eq_getElem hi] using hbit

theorem crcBits_eq_zero {n : Nat} {r : U16} (h : crcBits n r = 0) : r = 0 := by
  induction n generalizing r with
  | zero => exact h
  | succ n ih => exact crcBit_eq_zero (ih h)

/-- A linear map with kernel 0 is injective (`crcBits_xor`). -/
theorem crcBits_injective (n : Nat) : Function.Injective (crcBits n) := fun a b h =>
  BitVec.xor_eq_zero_iff.mp (crcBits_eq_zero (by rw [crcBits_xor, h, BitVec.xor_self]; rfl))

theorem crcByte_injective_left (b : Byte) : Function.Injective (crcByte · b) := fun _ _ h =>
  BitVec.xor_left_inj _ |>.mp (crcBits_injective 8 h)

theorem crcByte_injective_right (r : U16) : Function.Injective (crcByte r) := fun a b h => by
  have hwide : a.setWidth 16 = b.setWidth 16 := BitVec.xor_right_inj _ |>.mp (crcBits_injective 8 h)
  simpa using congrArg (BitVec.setWidth 8) hwide

theorem crcX25_ne_of_ne_first {a a' : Byte} (b : Byte) (h : a' ≠ a) : crcX25 [a', b] ≠ crcX25 [a, b] := fun heq =>
  h (crcByte_injective_right _ (crcByte_injective_left b (BitVec.xor_left_inj _ |>.mp heq)))

theorem crcX25_ne_of_ne_second (a : Byte) {b b' : Byte} (h : b' ≠ b) : crcX25 [a, b'] ≠ crcX25 [a, b] := fun heq =>
  h (crcByte_injective_right _ (BitVec.xor_left_inj _ |>.mp heq))

/-- A field determines its two wire bytes. -/
theorem fieldOf_inj {o : HdrOrder} {a b a' b' : Byte} : fieldOf o a' b' = fieldOf o a b ↔ a' = a ∧ b' = b := by
  refine ⟨fun h => ?_, fun ⟨ha, hb⟩ => by rw [ha, hb]⟩
  have hbytes := congrArg (fieldBytes o) h
  simpa only [fieldBytes_fieldOf, List.cons.injEq, and_true] using hbytes

/-! ### DECODE -/

theorem headerBytes_take_two (o : HdrOrder) (c k : U16) : (headerBytes o c k).take 2 = fieldBytes o c :=
  List.take_left' (fieldBytes_length o c)

/-- When DECODE accepts a datagram with count field c and checksum field k (R92). -/
theorem decodeHeader_headerBytes_eq_ok_iff {alg : CrcAlg} {o : HdrOrder} {c k c' : U16} :
    decodeHeader alg o (headerBytes o c k) = .ok c' ↔ crc16 alg (fieldBytes o c) = k ∧ 0 < c.toInt ∧ c = c' := by
  rw [decodeHeader_headerBytes]
  split_ifs with hcrc hsign
  · simp [hcrc]
  · simp [hsign]
  · simp [not_not.mp hcrc, not_le.mp hsign]

/-- DECODE recovers an encoded positive count (R93). -/
theorem decodeHeader_encodeHeader {alg : CrcAlg} {o : HdrOrder} {c : S16} (h : 0 < c.toInt) :
    decodeHeader alg o (encodeHeader alg o c) = .ok c :=
  decodeHeader_headerBytes_eq_ok_iff.mpr ⟨rfl, h, rfl⟩

theorem decodeHeader_of_crc_ne {alg : CrcAlg} {o : HdrOrder} {b0 b1 b2 b3 : Byte}
    (h : crc16 alg [b0, b1] ≠ fieldOf o b2 b3) : decodeHeader alg o [b0, b1, b2, b3] = .error .crcMismatch := if_pos h

/-- The four bytes of an encoded header: the last two hold the checksum of the first two (R91). -/
theorem encodeHeader_eq_four (alg : CrcAlg) (o : HdrOrder) (c : S16) :
    ∃ b0 b1 b2 b3, encodeHeader alg o c = [b0, b1, b2, b3] ∧ crc16 alg [b0, b1] = fieldOf o b2 b3 := by
  obtain ⟨b0, b1, hcount, -⟩ := fieldBytes_eq o c
  obtain ⟨b2, b3, hcrc, hfield⟩ := fieldBytes_eq o (crc16 alg (fieldBytes o c))
  exact ⟨b0, b1, b2, b3, by rw [encodeHeader, headerBytes, hcrc, hcount]; rfl,
    by rw [hfield, hcount]⟩

/-- Whatever changes any one byte of an encoded header is a checksum mismatch. A changed count byte changes the checksum computed,
a changed checksum byte the checksum received. -/
theorem decodeHeader_encodeHeader_modify (o : HdrOrder) (c : S16) {f : Byte → Byte} (hf : ∀ b, f b ≠ b)
    {byte : Nat} (hbyte : byte < 4) :
    decodeHeader .x25 o ((encodeHeader .x25 o c).modify byte f) = .error .crcMismatch := by
  obtain ⟨b0, b1, b2, b3, hbytes, hcrc⟩ := encodeHeader_eq_four .x25 o c
  rw [hbytes]
  match byte, hbyte with
  | 0, _ => exact decodeHeader_of_crc_ne (hcrc ▸ crcX25_ne_of_ne_first b1 (hf b0))
  | 1, _ => exact decodeHeader_of_crc_ne (hcrc ▸ crcX25_ne_of_ne_second b0 (hf b1))
  | 2, _ => exact decodeHeader_of_crc_ne fun h => hf b2 (fieldOf_inj.mp (h.symm.trans hcrc)).1
  | 3, _ => exact decodeHeader_of_crc_ne fun h => hf b3 (fieldOf_inj.mp (h.symm.trans hcrc)).2

/-- Flipping a bit of a byte changes the byte. -/
theorem bitFlip_ne {bit : Nat} (hbit : bit < 8) (b : Byte) : b ^^^ (1#8 <<< bit) ≠ b := fun h => by
  have hat := congrArg (·.getLsbD bit) h
  simp [hbit] at hat

end Sys2Proof.Machine
end

section
/-! PROOF. The statements about the Header Codec (40_header_codec.md). -/

namespace Sys2Proof.Machine

/-- Settles O10: the three clauses are the branches of DECODE on a header's fields (`decodeHeader_headerBytes`). -/
theorem decodeTestsChecksumThenSign : Obligations.DecodeTestsChecksumThenSign := by
  intro alg o c k
  rw [headerBytes_take_two, decodeHeader_headerBytes]
  refine ⟨fun hcrc => if_pos hcrc.symm, fun hcrc hsign => ?_, fun hcrc hsign => ?_⟩
  · rw [if_neg (not_not.mpr hcrc.symm), if_pos hsign]
  · rw [if_neg (not_not.mpr hcrc.symm), if_neg (not_le.mpr hsign)]

/-- Settles O11: the encoder's checksum is the one DECODE computes, whichever function it is. -/
theorem headerRoundTrip : Obligations.HeaderRoundTrip :=
  fun _ _ _ hpos _ => decodeHeader_encodeHeader hpos

/-- Settles O12: a flipped bit is a changed byte, and DECODE rejects every change of one byte
(`decodeHeader_encodeHeader_modify`). -/
theorem singleBitFlipRejected : Obligations.SingleBitFlipRejected :=
  fun o c _ _ _ _ hbyte hbit => ⟨_, decodeHeader_encodeHeader_modify o c (bitFlip_ne hbit) hbyte⟩

/-- Settles O13: four bytes are the header of the fields they hold, and DECODE accepts them when the checksum field is the one ENCODE
gives the count. -/
theorem acceptedHeadersAreEncodings : Obligations.AcceptedHeadersAreEncodings := by
  intro alg o d c hlength
  constructor
  · intro h
    obtain ⟨b0, b1, b2, b3, rfl⟩ := List.length_eq_four.mp hlength
    rw [← headerBytes_fieldOf o] at h ⊢
    obtain ⟨hcrc, hpos, rfl⟩ := decodeHeader_headerBytes_eq_ok_iff.mp h
    exact ⟨hpos, by rw [← hcrc, encodeHeader]⟩
  · rintro ⟨hpos, rfl⟩
    exact decodeHeader_encodeHeader hpos

/-- Settles O8: the bitwise definition of R90 evaluates to each value. -/
theorem checksumCheckValues : Obligations.ChecksumCheckValues := by
  unfold Obligations.ChecksumCheckValues
  decide +kernel

/-- Settles O9: `encodeHeader` puts the two fields' bytes in the order's sequence, and cutting out eight bits from bit 8 or bit 0 is
by definition the shift and the narrowing the statement writes. -/
theorem encodeLaysOutCountThenChecksum : Obligations.EncodeLaysOutCountThenChecksum := by
  intro alg c
  constructor
  · rintro k rfl
    rfl
  · rintro k rfl
    rfl

end Sys2Proof.Machine
end

section
/-! SUPPORT. The chunk counts (41_sender.md R101, R104), the effects that emit SENT (R106), and what SEND and WRITE_DONE answer under
each of their conditions (R102, R105). -/

namespace Sys2Proof.Machine

/-! ### The chunk count (R101, R104) -/

/-- One chunk for each whole chunk size in the data, and one more for a rest. -/
theorem chunkTotal_eq (len : Nat) {cs : Nat} (h : 0 < cs) :
    chunkTotal len cs = len / cs + if len % cs = 0 then 0 else 1 := by
  have hdiv : len % cs + cs * (len / cs) = len := Nat.mod_add_div len cs
  have hmod : len % cs < cs := Nat.mod_lt len h
  have hsplit : len + cs - 1 = len % cs + cs - 1 + cs * (len / cs) := by omega
  rw [chunkTotal, hsplit, Nat.add_mul_div_left _ _ h, Nat.add_comm, Nat.add_left_cancel_iff]
  split_ifs
  · exact Nat.div_eq_of_lt (by omega)
  · exact Nat.div_eq_of_lt_le (by omega) (by omega)

/-- NEAREST counts a rest from half a chunk on. -/
theorem chunkCount_nearest_eq (len : Nat) {cs : Nat} (h : 0 < cs) :
    chunkCount .nearest len cs = len / cs + if 2 * (len % cs) < cs then 0 else 1 := by
  have hdiv : len % cs + cs * (len / cs) = len := Nat.mod_add_div len cs
  have hmod : len % cs < cs := Nat.mod_lt len h
  have hsplit : 2 * len + cs = 2 * (len % cs) + cs + 2 * cs * (len / cs) := by
    rw [Nat.mul_assoc]
    omega
  rw [chunkCount, hsplit, Nat.add_mul_div_left _ _ (by omega), Nat.add_comm, Nat.add_left_cancel_iff]
  split_ifs
  · exact Nat.div_eq_of_lt (by omega)
  · exact Nat.div_eq_of_lt_le (by omega) (by omega)

/-! ### SENT -/

/-- The two effects that emit SENT (R106): each emits it alone. -/
theorem exec_sent {i : Instr} {s t : State} (h : exec i s = .next t) :
    .sent ∉ newOutputs s t ∨
    newOutputs s t = [.sent] ∧
      ((∃ data, i = .send data ∧ (data = [] ∨ s.txbuf ≠ []) ∧ t = emit .sent s) ∨ i = .writeDone ∧ t.txbuf = []) := by
  cases exec_effect h with
  | sendDropped hn => exact .inr ⟨newOutputs_of_append rfl, .inl ⟨_, rfl, hn, rfl⟩⟩
  | lastWriteDone _ hb => exact .inr ⟨newOutputs_of_append rfl, .inr ⟨rfl, hb⟩⟩
  | datagram _ hr =>
    obtain ⟨⟨os, hos, _, hsent⟩, _⟩ := receive_frame hr
    exact .inl (newOutputs_of_append hos ▸ hsent)
  | reserved0 | reservedF | sendRefused | sendAccepted | writeDoneArms | paceFire | xportError | setMsd | setMss | setDest
  | bindOk | bindFailed | getMsd | getMss | isStreaming | tick | reset => simp [newOutputs]

/-! ### SEND and WRITE_DONE -/

theorem sendRefusal_of_mss_zero {s : State} (h : s.mss = 0) (d : Bytes) : sendRefusal s d = some .zeroChunk :=
  if_pos (by simp [chunkSize, h])

/-- R102's first test is passed when MSS is not 0. -/
theorem chunkSize_ne_zero {mss : U16} (h : mss ≠ 0) : chunkSize mss ≠ 0 := by
  have hpos : mss.toNat ≠ 0 := fun h0 => h (BitVec.eq_of_toNat_eq h0)
  simp only [chunkSize, Config.maxPayload]
  omega

theorem sendRefusal_of_count_gt {s : State} {d : Bytes} (hm : s.mss ≠ 0)
    (hn : 32767 < chunkCount s.params.countMode d.length (min 1400 s.mss.toNat)) :
    sendRefusal s d = some .countRange := by
  rw [sendRefusal, if_neg (chunkSize_ne_zero hm)]
  exact if_pos hn

theorem sendRefusal_of_cap_lt {s : State} {d : Bytes} {cap : Nat} (hm : s.mss ≠ 0)
    (hn : chunkCount s.params.countMode d.length (min 1400 s.mss.toNat) ≤ 32767)
    (hc : s.params.bufCap = some cap) (hlt : cap < d.length) : sendRefusal s d = some .bufferCap := by
  rw [sendRefusal, if_neg (chunkSize_ne_zero hm)]
  refine (if_neg (not_lt.mpr hn)).trans (if_pos ?_)
  exact (exceedsCap_eq_true _ _).mpr ⟨cap, hc, hlt⟩

/-- A refused SEND past its no-op test (R102). -/
theorem execSend_of_refused {d : Bytes} {s : State} {r : RefuseReason} (hd : d ≠ []) (hb : s.txbuf = [])
    (hr : sendRefusal s d = some r) : execSend d s = .next (refuse r s) := by
  rw [execSend_of_idle hd hb, hr]

/-- WRITE_DONE with nothing outstanding (R187). -/
theorem execWriteDone_of_none {s : State} (h : s.inflight = .none) : execWriteDone s = .fault .writeDoneNoMove :=
  if_neg (by simp [State.writeDoneEnabled, h])

/-- The write outstanding is confirmed and `left` stays in TXBUF (R105). -/
theorem confirmWrite_of_left {s : State} {left : Bytes}
    (h : s.inflight = .hdr ∧ left = s.txbuf ∨ ∃ k, s.inflight = .chunk k ∧ left = s.txbuf.drop k) :
    s.inflight ≠ .none ∧ confirmWrite s = { s with txbuf := left, inflight := .none } := by
  rcases h with ⟨hw, rfl⟩ | ⟨k, hw, rfl⟩ <;> simp [confirmWrite, hw, Inflight.confirmedLength]

theorem execWriteDone_of_empty {s : State} (hw : s.inflight ≠ .none) (hb : (confirmWrite s).txbuf = []) :
    execWriteDone s = .next (emit .sent (confirmWrite s)) := by
  rw [execWriteDone_of_outstanding hw, if_pos (List.length_eq_zero_iff.mpr hb)]

theorem execWriteDone_of_nonempty {s : State} (hw : s.inflight ≠ .none) (hb : (confirmWrite s).txbuf ≠ []) :
    execWriteDone s = .next (paceArm (confirmWrite s)) := by
  rw [execWriteDone_of_outstanding hw, if_neg (mt List.length_eq_zero_iff.mp hb)]

end Sys2Proof.Machine
end

section
/-! SUPPORT. What an accepted stream needs (41_sender.md R103 to R106): the sender's control invariant under each effect, what a
step of a running stream issues, and the rounds of confirm and fire that complete it. -/

namespace Sys2Proof.Machine

/-! ### The sender's control under a step -/

/-- R40 speaks of three elements only. -/
theorem SenderControl.congr {s t : State} (hs : SenderControl s) (htx : t.txbuf = s.txbuf)
    (hw : t.inflight = s.inflight) (hp : t.pace = s.pace) : SenderControl t := by
  simpa only [SenderControl, htx, hw, hp] using hs

/-- R40 needs no other invariant to be kept. -/
theorem SenderControl.exec {i : Instr} {s t : State} (hs : SenderControl s) (h : exec i s = .next t) :
    SenderControl t := by
  cases exec_effect h with
  | sendAccepted hd hb _ => exact ⟨fun he => absurd he hd, fun _ => .inl ⟨by simp, (hs.1 hb).2⟩⟩
  | lastWriteDone hw hb => exact ⟨fun _ => ⟨rfl, (hs.of_outstanding hw).2⟩, fun he => absurd hb he⟩
  | writeDoneArms _ hb =>
    exact ⟨fun he => absurd (paceArm_txbuf _ ▸ he) hb, fun _ => .inr ⟨by simp, armAt_armed ..⟩⟩
  | paceFire hp _ => exact ⟨fun he => absurd he (hs.of_armed hp).1, fun _ => .inl ⟨by simp, rfl⟩⟩
  | datagram _ hr =>
    obtain ⟨_, htx, hw, hp, _⟩ := receive_frame hr
    exact hs.congr htx hw hp
  | xportError | reset => exact ⟨fun _ => ⟨rfl, rfl⟩, fun he => absurd rfl he⟩
  | reserved0 | reservedF | sendDropped | sendRefused | setMsd | setMss | setDest | bindOk | bindFailed | getMsd | getMss
  | isStreaming | tick => exact hs.congr rfl rfl rfl

/-! ### What a step of a running stream issues -/

theorem unissued_of_none {s : State} (h : s.inflight = .none) : unissued s = s.txbuf := by
  simp [unissued, h, Inflight.confirmedLength]

/-- The next slice is the front of TXBUF, of the latched size or what is left (R121). -/
theorem take_sliceLength (s : State) : s.txbuf.take (sliceLength s) = s.txbuf.take s.chunk.toNat :=
  List.take_eq_take_min.symm

theorem unissued_fireSlice (s : State) : unissued (fireSlice s) = s.txbuf.drop s.chunk.toNat :=
  List.drop_eq_drop_min.symm

/-- Outside SEND, XPORT_ERROR and RESET a step issues nothing and leaves the bytes to issue as they are, or it issues their first
chunk of the latched size. -/
theorem exec_issues {i : Instr} {s t : State} (hs : SenderControl s) (hi : breaksStream i = false)
    (h : exec i s = .next t) :
    ∃ os, t.outputs = s.outputs ++ os ∧ t.chunk = s.chunk ∧
      (txDatagrams os = [] ∧ unissued t = unissued s ∨
        unissued s ≠ [] ∧ txDatagrams os = [(unissued s).take s.chunk.toNat] ∧
          unissued t = (unissued s).drop s.chunk.toNat) := by
  cases exec_effect h with
  | sendDropped | sendRefused | sendAccepted | xportError | reset => cases hi
  | paceFire hp _ =>
    obtain ⟨hx, hw⟩ := hs.of_armed hp
    refine ⟨_, fireSlice_outputs s, rfl, .inr ?_⟩
    rw [unissued_of_none hw, take_sliceLength, unissued_fireSlice]
    exact ⟨hx, rfl, rfl⟩
  | datagram _ hr =>
    obtain ⟨⟨os, hos, htx, _⟩, hbuf, hw, _, hchunk, _⟩ := receive_frame hr
    exact ⟨os, hos, hchunk, .inl ⟨htx, by rw [unissued, hbuf, hw, unissued]⟩⟩
  | writeDoneArms => exact ⟨[], by simp, by simp, .inl ⟨rfl, by simp [unissued, Inflight.confirmedLength]⟩⟩
  | lastWriteDone | bindFailed | getMsd | getMss | isStreaming => exact ⟨_, rfl, rfl, .inl ⟨rfl, rfl⟩⟩
  | reserved0 | reservedF | setMsd | setMss | setDest | bindOk | tick => exact ⟨[], by simp, rfl, .inl ⟨rfl, rfl⟩⟩

/-- A schedule that breaks no stream and empties TXBUF issues the chunks of the bytes that were still to issue. -/
theorem execAll_issues_chunks {is : List Instr} {s t : State} (hs : SenderControl s) (hc : 0 < s.chunk.toNat)
    (hi : ∀ i ∈ is, breaksStream i = false) (h : execAll is s = .next t) (ht : t.txbuf = []) :
    ∃ os, t.outputs = s.outputs ++ os ∧ txDatagrams os = chunksOf (unissued s) s.chunk.toNat := by
  induction is generalizing s with
  | nil =>
    cases h
    exact ⟨[], by simp, by simp [unissued, ht, chunksOf_nil hc, txDatagrams]⟩
  | cons i is ih =>
    obtain ⟨u, hu, hrest⟩ := andThen_next h
    obtain ⟨hbreaks, hbreaks'⟩ := List.forall_mem_cons.mp hi
    obtain ⟨os, hos, hchunk, hissue⟩ := exec_issues hs hbreaks hu
    obtain ⟨os', hos', htx⟩ := ih (hs.exec hu) (hchunk ▸ hc) hbreaks' hrest
    refine ⟨os ++ os', by rw [hos', hos, List.append_assoc], ?_⟩
    rw [txDatagrams_append, htx, hchunk]
    obtain ⟨hnone, hsame⟩ | ⟨hx, hone, hdrop⟩ := hissue
    · rw [hnone, hsame, List.nil_append]
    · rw [hone, hdrop, chunksOf_cons hc hx, List.singleton_append]

/-! ### The rounds of confirm and fire (30_encoding.md R82) -/

/-- WAITFIRE of a deadline that has not passed. -/
theorem waitFire_of_armed {s : State} {d : U64} (hp : s.pace = .armed d) (hd : s.now.toNat ≤ d.toNat) :
    waitFire s = some [.tick d, .paceFire] := by
  simp [waitFire, hp, hd]

theorem execTick_of_le {s : State} {u : U64} (h : s.now.toNat ≤ u.toNat) : execTick u s = .next { s with now := u } :=
  if_pos (by simpa [State.tickEnabled] using h)

/-- The next slice is issued at the deadline. -/
theorem execAll_tick_paceFire {s : State} {d : U64} (hp : s.pace = .armed d) (hd : s.now.toNat ≤ d.toNat) :
    execAll [.tick d, .paceFire] s = .next (fireSlice { s with now := d }) := by
  rw [execAll_cons, exec_tick, execTick_of_le hd, andThen_of_next, execAll_cons, exec_paceFire,
    execPaceFire_of_enabled (s := { s with now := d }) hp le_rfl]
  rfl

/-- A round whose confirmation arms the scheduler fires it at its deadline. -/
theorem sendRound_of_armed {s u : State} {d : U64} (h : execWriteDone s = .next u) (hp : u.pace = .armed d)
    (hd : u.now.toNat ≤ d.toNat) : sendRound s = .next (fireSlice { u with now := d }) := by
  rw [sendRound, exec_writeDone, h, andThen_of_next, waitFire_of_armed hp hd]
  exact execAll_tick_paceFire hp hd

/-- A write was issued at this very time, is outstanding, and a chunk size is latched: the sender between two rounds. -/
structure JustIssued (s : State) : Prop where
  outstanding : s.inflight ≠ .none
  idle : s.pace = .idle
  issuedNow : s.lastTx = s.now
  latched : 0 < s.chunk.toNat

/-- The last round, whose confirmation leaves nothing in TXBUF, emits SENT. The scheduler stays idle. -/
theorem sendRound_of_nothing_left {s : State} (hs : JustIssued s) (hb : unissued s = []) :
    sendRound s = .next (emit .sent (confirmWrite s)) := by
  rw [sendRound, exec_writeDone, execWriteDone_of_empty hs.outstanding hb, andThen_of_next]
  simp [waitFire, hs.idle]

/-- The state after a round with bytes left: the write confirmed, MSD milliseconds later, the next slice issued. -/
def issueNext (s : State) : State :=
  fireSlice { confirmWrite s with now := BitVec.ofNat 64 (s.now.toNat + s.msd.toNat) }

theorem sendRound_of_bytes_left {s : State} (hs : JustIssued s) (hb : unissued s ≠ []) (hroom : TimeHeadroom s) :
    sendRound s = .next (issueNext s) := by
  have hmax : max s.now.toNat (s.lastTx.toNat + s.msd.toNat) = s.now.toNat + s.msd.toNat := by
    rw [hs.issuedNow]
    omega
  have harm : paceArm (confirmWrite s) =
      { confirmWrite s with pace := .armed (BitVec.ofNat 64 (s.now.toNat + s.msd.toNat)) } := by
    rw [← hmax]
    exact paceArm_of_lt (confirmWrite s) (hmax ▸ hroom)
  have hlater : s.now.toNat ≤ (BitVec.ofNat 64 (s.now.toNat + s.msd.toNat)).toNat := by
    rw [BitVec.toNat_ofNat, Nat.mod_eq_of_lt (show _ < 2 ^ 64 from hroom)]
    omega
  rw [sendRound_of_armed (execWriteDone_of_nonempty hs.outstanding hb) (by rw [harm]) (by simpa using hlater), harm]
  rfl

theorem issueNext_justIssued {s : State} (hs : JustIssued s) : JustIssued (issueNext s) :=
  ⟨by simp [issueNext], rfl, rfl, hs.latched⟩

theorem issueNext_now {s : State} (h : TimeHeadroom s) : (issueNext s).now.toNat = s.now.toNat + s.msd.toNat :=
  Nat.mod_eq_of_lt h

theorem unissued_issueNext (s : State) : unissued (issueNext s) = (unissued s).drop s.chunk.toNat :=
  unissued_fireSlice _

theorem issueNext_outputs (s : State) :
    (issueNext s).outputs = s.outputs ++ [.tx s.dest ((unissued s).take s.chunk.toNat)] := by
  rw [issueNext, fireSlice_outputs, take_sliceLength]
  rfl

/-- One round for each chunk still to issue, and one that confirms the last. -/
theorem sendRounds_complete {n : Nat} {s : State} (hs : JustIssued s)
    (hn : chunkTotal (unissued s).length s.chunk.toNat = n) (hroom : s.now.toNat + n * s.msd.toNat < u64Limit) :
    ∃ t, sendRounds (n + 1) s = .next t ∧ t.txbuf = [] ∧ Over t ∧ t.refused = s.refused ∧
      t.outputs = s.outputs ++ ((chunksOf (unissued s) s.chunk.toNat).map (Output.tx s.dest) ++ [.sent]) := by
  induction n generalizing s with
  | zero =>
    have hb : unissued s = [] := by
      by_contra hx
      rw [chunkTotal_succ hs.latched (List.length_pos_iff.mpr hx)] at hn
      omega
    have hrun : sendRounds 1 s = .next (emit .sent (confirmWrite s)) := by
      rw [sendRounds, sendRound_of_nothing_left hs hb]
      rfl
    refine ⟨_, hrun, hb, ⟨rfl, hs.idle⟩, rfl, ?_⟩
    rw [hb, chunksOf_nil hs.latched]
    rfl
  | succ n ih =>
    have hx : unissued s ≠ [] := fun hb => by simp [hb, chunkTotal_zero hs.latched] at hn
    rw [Nat.succ_mul] at hroom
    have hnext : TimeHeadroom s := show _ < _ by omega
    have hrest : chunkTotal (unissued (issueNext s)).length (issueNext s).chunk.toNat = n := by
      rw [chunkTotal_succ hs.latched (List.length_pos_iff.mpr hx)] at hn
      rw [unissued_issueNext, List.length_drop]
      exact Nat.succ_injective hn
    have hroom' : (issueNext s).now.toNat + n * s.msd.toNat < u64Limit := by
      rw [issueNext_now hnext]
      omega
    obtain ⟨t, hrun, htx, hover, hrefused, hout⟩ := ih (issueNext_justIssued hs) hrest hroom'
    refine ⟨t, by rw [sendRounds, sendRound_of_bytes_left hs hx hnext]; exact hrun, htx, hover, hrefused, ?_⟩
    rw [hout, issueNext_outputs, unissued_issueNext, chunksOf_cons hs.latched hx, List.append_assoc]
    rfl

/-! ### The start of a stream -/

/-- The chunk size an accepted SEND latches (R100). -/
theorem acceptSend_chunk_toNat (d : Bytes) (s : State) : (acceptSend d s).chunk.toNat = min 1400 s.mss.toNat :=
  narrow16_chunkSize_toNat s.mss

theorem acceptSend_chunk_pos {d : Bytes} {s : State} (h : Accepts s d) : 0 < (acceptSend d s).chunk.toNat := by
  rw [acceptSend_chunk_toNat]
  exact (chunkSize_bounds (sendRefusal_of_accepts h)).1

/-- A header's confirmation removes nothing, so all the data is still to issue. -/
theorem unissued_acceptSend (d : Bytes) (s : State) : unissued (acceptSend d s) = d := rfl

theorem acceptSend_justIssued {d : Bytes} {s : State} (h : Accepts s d) (hs : SenderControl s) :
    JustIssued (acceptSend d s) := by
  have ⟨_, hempty, _⟩ := h
  obtain ⟨_, hidle⟩ := hs.1 hempty
  exact ⟨by simp, hidle, rfl, acceptSend_chunk_pos h⟩

end Sys2Proof.Machine
end

section
/-! PROOF. The statements about the Sender Engine (41_sender.md). -/

namespace Sys2Proof.Machine

/-- Settles O23: the accepted SEND issues the header, and every further step issues nothing or the next chunk of the latched size
(`execAll_issues_chunks`). -/
theorem streamIsHeaderThenChunks : Obligations.StreamIsHeaderThenChunks := by
  intro s t data is haccepts hcontrol hbreaks hrun hempty _
  have hsend : exec (.send data) s = .next (acceptSend data s) := execSend_of_accepts haccepts
  rw [execAll_cons, hsend, andThen_of_next] at hrun
  obtain ⟨os, hos, hchunks⟩ :=
    execAll_issues_chunks (hcontrol.exec hsend) (acceptSend_chunk_pos haccepts) hbreaks hrun hempty
  rw [acceptSend_chunk_toNat, unissued_acceptSend] at hchunks
  rw [acceptSend_outputs, List.append_assoc] at hos
  rw [newOutputs_of_append hos, txDatagrams_append, hchunks, narrow16_natCast]
  rfl

/-- Settles O24: the accepted SEND issues the header at NOW, and one round for each chunk and one more complete the stream
(`sendRounds_complete`). -/
theorem acceptedStreamCompletes : Obligations.AcceptedStreamCompletes := by
  intro s data haccepts hcontrol hrefused hroom
  rw [Nat.succ_mul] at hroom
  have hchunk := acceptSend_chunk_toNat data s
  obtain ⟨t, hrun, htx, hover, hsame, hout⟩ :=
    sendRounds_complete (acceptSend_justIssued haccepts hcontrol) (by rw [hchunk, unissued_acceptSend])
      (show s.now.toNat + chunkTotal data.length (min 1400 s.mss.toNat) * s.msd.toNat < 2 ^ 64 by omega)
  rw [hchunk, acceptSend_outputs, unissued_acceptSend, List.append_assoc, narrow16_natCast] at hout
  refine ⟨t, ?_, htx, hover, hsame.trans hrefused, newOutputs_of_append hout⟩
  rw [exec_send, execSend_of_accepts haccepts, andThen_of_next, hrun]

/-- Settles O15: an accepted SEND meets no refusal (`execSend_of_accepts`), and what it narrows is written with `BitVec.ofNat`. -/
theorem acceptedSendIssuesHeader : Obligations.AcceptedSendIssuesHeader := by
  intro s data haccepts
  rw [exec_send, execSend_of_accepts haccepts, acceptSend, narrow16_natCast, narrow16_natCast]
  rfl

/-- Settles O17: under each clause `sendRefusal` answers that reason, and the refusal is the mark alone. -/
theorem sendRefusedInOrder : Obligations.SendRefusedInOrder := by
  intro s data hdata hidle
  refine ⟨fun hmss => ?_, fun hmss hcount => ?_, fun hmss hcount cap hcap hlong => ?_⟩
  · exact execSend_of_refused hdata hidle (sendRefusal_of_mss_zero hmss data)
  · exact execSend_of_refused hdata hidle (sendRefusal_of_count_gt hmss hcount)
  · exact execSend_of_refused hdata hidle (sendRefusal_of_cap_lt hmss hcount hcap hlong)

/-- Settles O18: both counts are the whole chunks plus one for a rest, NEAREST's from half a chunk on (`chunkTotal_eq`,
`chunkCount_nearest_eq`). -/
theorem nearestUnderCountsByOne : Obligations.NearestUnderCountsByOne := by
  intro len cs _ hcs
  rw [chunkCount_nearest_eq len hcs, chunkTotal_eq len hcs]
  refine ⟨chunkTotal_eq len hcs, ?_, ?_⟩
  · rintro ⟨hpos, hshort⟩
    rw [if_pos hshort, if_neg (by omega)]
  · rintro (hzero | hlong)
    · rw [if_pos hzero, if_pos (by omega)]
    · rw [if_neg (by omega), if_neg (by omega)]

/-- Settles O19: the confirmation leaves `left` (`confirmWrite_of_left`), and whether that is empty selects SENT or the arm
(`paceArm_of_lt`). -/
theorem writeDoneConfirmsAndArms : Obligations.WriteDoneConfirmsAndArms := by
  refine fun s => ⟨execWriteDone_of_none, fun left hleft => ?_⟩
  obtain ⟨hw, hconfirm⟩ := confirmWrite_of_left hleft
  constructor
  · rintro rfl
    rw [exec_writeDone, execWriteDone_of_empty hw (by rw [hconfirm]), hconfirm]
    rfl
  · intro hne hfits
    rw [exec_writeDone, execWriteDone_of_nonempty hw (by rwa [hconfirm]), hconfirm]
    exact congrArg Host.Outcome.next (paceArm_of_lt _ hfits)

/-- Settles O22: a step issues nothing or the first chunk of the bytes still to issue (`exec_issues`). -/
theorem issuedBytesConserved : Obligations.IssuedBytesConserved := by
  intro i s t hcontrol hbreaks h
  obtain ⟨os, hos, _, hissue⟩ := exec_issues hcontrol hbreaks h
  rw [newOutputs_of_append hos]
  obtain ⟨hnone, hsame⟩ | ⟨_, hone, hdrop⟩ := hissue
  · rw [hnone, hsame]
    rfl
  · rw [hone, hdrop, List.flatten_singleton, List.take_append_drop]

/-- Settles O25: a step emits no SENT, or SENT alone from one of R106's two places (`exec_sent`). -/
theorem sentOnlyFromDropOrLastWrite : Obligations.SentOnlyFromDropOrLastWrite := by
  intro i s t h
  obtain hno | ⟨hone, hplace⟩ := exec_sent h
  · exact ⟨by rw [List.count_eq_zero_of_not_mem hno]; omega, fun hmem => absurd hmem hno⟩
  · exact ⟨by rw [hone]; decide, fun _ => hplace⟩

/-- Settles O16: the no-op test comes first (`execSend_of_dropped`), and its outcome is SENT alone. -/
theorem droppedSendOnlyEmitsSent : Obligations.DroppedSendOnlyEmitsSent :=
  fun _ _ => execSend_of_dropped

end Sys2Proof.Machine
end

section
/-! SUPPORT. What the pacing statements need (42_pacing.md): the arm of a WRITE_DONE, an armed task under each effect and over a
run, and the moves that do not read PACE. -/

namespace Sys2Proof.Machine

/-! ### Arming (R105, R120) -/

/-- A WRITE_DONE that leaves bytes is the arm, at LAST_TX + MSD or later where the time base has room. -/
theorem execWriteDone_arms {s a : State} (h : execWriteDone s = .next a) (hb : a.txbuf ≠ []) (hroom : TimeHeadroom s)
    (hlast : s.lastTx.toNat ≤ s.now.toNat) :
    a.lastTx = s.lastTx ∧ ∃ d, a.pace = .armed d ∧ s.lastTx.toNat + s.msd.toNat ≤ d.toNat := by
  obtain ⟨_, ⟨hempty, rfl⟩ | ⟨_, rfl⟩⟩ := execWriteDone_next h
  · exact absurd hempty hb
  · have hfits : max s.now.toNat (s.lastTx.toNat + s.msd.toNat) < 2 ^ 64 := by
      have hsum : s.now.toNat + s.msd.toNat < 2 ^ 64 := hroom
      omega
    refine ⟨paceArm_lastTx _, _, congrArg State.pace (paceArm_of_lt (confirmWrite s) hfits), ?_⟩
    exact (Nat.le_max_right ..).trans_eq (Nat.mod_eq_of_lt hfits).symm

/-! ### An armed task (R123) -/

/-- Only firing, XPORT_ERROR and RESET touch an armed task or LAST_TX: with the task armed TXBUF is non-empty and nothing is
outstanding (R40), so SEND is not accepted and WRITE_DONE has no move. -/
theorem armed_kept {i : Instr} {s t : State} {d : U64} (hs : SenderControl s) (hp : s.pace = .armed d)
    (h : exec i s = .next t) (hfire : i ≠ .paceFire) (herror : ∀ info, i ≠ .xportError info) (hreset : i ≠ .reset) :
    t.pace = .armed d ∧ t.lastTx = s.lastTx := by
  obtain ⟨hx, hnone⟩ := hs.of_armed hp
  cases exec_effect h with
  | sendAccepted _ hb => exact absurd hb hx
  | lastWriteDone hw | writeDoneArms hw => exact absurd hnone hw
  | paceFire => exact absurd rfl hfire
  | xportError e => exact absurd rfl (herror e)
  | reset => exact absurd rfl hreset
  | datagram hi =>
    obtain ⟨_, _, hpace, _, hlast⟩ := sender_unchanged_of_delivers h hi
    exact ⟨hpace.trans hp, hlast⟩
  | reserved0 | reservedF | sendDropped | sendRefused | setMsd | setMss | setDest | bindOk | bindFailed | getMsd | getMss
  | isStreaming | tick => exact ⟨hp, rfl⟩

/-- Over a run without those three, the armed task and LAST_TX stay. -/
theorem execAll_armed_kept {is : List Instr} {s t : State} {d : U64} (hs : SenderControl s) (hp : s.pace = .armed d)
    (hi : ∀ i ∈ is, i ≠ .paceFire ∧ i ≠ .reset ∧ ∀ info, i ≠ .xportError info) (h : execAll is s = .next t) :
    t.pace = .armed d ∧ t.lastTx = s.lastTx := by
  induction is generalizing s with
  | nil =>
    cases h
    exact ⟨hp, rfl⟩
  | cons i is ih =>
    obtain ⟨u, hu, hrest⟩ := andThen_next h
    obtain ⟨⟨hfire, hreset, herror⟩, hi'⟩ := List.forall_mem_cons.mp hi
    obtain ⟨hpu, hlastu⟩ := armed_kept hs hp hu hfire herror hreset
    obtain ⟨hpt, hlastt⟩ := ih (hs.exec hu) hpu hi' hrest
    exact ⟨hpt, hlastt.trans hlastu⟩

/-- PACE_FIRE issues at or after the deadline of the armed task. -/
theorem execPaceFire_lastTx_ge {s t : State} {d : U64} (hp : s.pace = .armed d) (h : execPaceFire s = .next t) :
    d.toNat ≤ t.lastTx.toNat := by
  obtain ⟨d', hp', hd', rfl⟩ := execPaceFire_next h
  obtain rfl : d = d' := Pace.armed.inj (hp.symm.trans hp')
  exact hd'

/-- PACE_FIRE with no task armed, or before its deadline (R121). -/
theorem execPaceFire_of_not_enabled {s : State} (h : ∀ d, s.pace = .armed d → s.now.toNat < d.toNat) :
    execPaceFire s = .fault .paceFireNoMove := by
  refine if_neg ?_
  rw [State.paceFireEnabled]
  cases hp : s.pace with
  | idle => simp
  | armed d => simpa using h d hp

/-! ### The moves do not read PACE (R124) -/

/-- A SEND past its no-op test that meets no refusal (R103). -/
theorem execSend_of_not_refused {d : Bytes} {s : State} (hd : d ≠ []) (hb : s.txbuf = []) (hr : sendRefusal s d = none) :
    execSend d s = .next (acceptSend d s) := by
  rw [execSend_of_idle hd hb, hr]

/-- The conditions under which an instruction other than PACE_FIRE has a move hold whatever PACE is. -/
theorem exec_moves_with_pace {i : Instr} {s t : State} (p : Pace) (hfire : i ≠ .paceFire) (h : exec i s = .next t) :
    ∃ u, exec i { s with pace := p } = .next u := by
  cases exec_effect h with
  | sendDropped hn => exact ⟨_, execSend_of_dropped hn⟩
  | sendRefused hd hb hr => exact ⟨_, execSend_of_refused (s := { s with pace := p }) hd hb hr⟩
  | sendAccepted hd hb hr => exact ⟨_, execSend_of_not_refused (s := { s with pace := p }) hd hb hr⟩
  | lastWriteDone hw hb => exact ⟨_, execWriteDone_of_empty (s := { s with pace := p }) hw hb⟩
  | writeDoneArms hw hb => exact ⟨_, execWriteDone_of_nonempty (s := { s with pace := p }) hw hb⟩
  | paceFire => exact absurd rfl hfire
  | datagram hi hr =>
    exact ⟨_, (exec_of_delivers (s := { s with pace := p }) hi).trans
      (receive_overwriteSender s.txbuf s.inflight p s.chunk s.lastTx hr)⟩
  | tick hu => exact ⟨_, execTick_of_le (s := { s with pace := p }) hu⟩
  | reserved0 | reservedF | xportError | setMsd | setMss | setDest | bindOk | bindFailed | getMsd | getMss | isStreaming
  | reset => exact ⟨_, rfl⟩

end Sys2Proof.Machine
end

section
/-! PROOF. The statements about the Pacing Scheduler (42_pacing.md). -/

namespace Sys2Proof.Machine

/-- Settles O29: the arm's deadline is LAST_TX + MSD or later (`execWriteDone_arms`), it and LAST_TX stay until the firing
(`execAll_armed_kept`), and the firing issues no earlier (`execPaceFire_lastTx_ge`). -/
theorem consecutiveDatagramsSpaced : Obligations.ConsecutiveDatagramsSpaced := by
  intro s a b t is hcontrol hlast hroom harm hleft hrun hkeep hfire _
  obtain ⟨hlasta, d, hpa, hd⟩ := execWriteDone_arms harm hleft hroom hlast
  obtain ⟨hpb, hlastb⟩ := execAll_armed_kept (hcontrol.exec harm) hpa hkeep hrun
  exact ⟨hlasta, hlastb.trans hlasta, hd.trans (execPaceFire_lastTx_ge hpb hfire)⟩

/-- Settles O26: the armed task stays (`armed_kept`), and time does not run back (O31). -/
theorem paceFireStaysEnabled : Obligations.PaceFireStaysEnabled := by
  intro i s t d hcontrol hp hd h hfire herror hreset
  obtain ⟨hpt, _⟩ := armed_kept hcontrol hp h hfire herror hreset
  obtain ⟨hnow, _⟩ := timeNeverRunsBack i s t h hreset
  exact ⟨hpt, hd.trans hnow⟩

/-- Settles O27: of the other instructions only WRITE_DONE writes PACE (O55), and it leaves PACE as it was or arms it. -/
theorem paceIdleOnlyByThree : Obligations.PaceIdleOnlyByThree := by
  intro i s t d h hp hidle
  have hchanged : t.pace ≠ s.pace := by simp [hp, hidle]
  by_contra! ⟨hfire, herror, hreset⟩
  obtain ⟨_, _, _, _, _, _, _, _, hpace, _⟩ := elementsWrittenOnlyByTheirOperations i s t h hreset
  obtain rfl : i = .writeDone := by_contra fun hw => hchanged (hpace hfire hw herror)
  obtain ⟨_, ⟨_, rfl⟩ | ⟨_, rfl⟩⟩ := execWriteDone_next h
  · exact hchanged rfl
  · obtain ⟨u, hu⟩ := armAt_armed (armDeadline (confirmWrite s)) (confirmWrite s)
    exact Pace.noConfusion (hidle.symm.trans hu)

/-- Settles O28: a move stays one under any PACE (`exec_moves_with_pace`), in particular when the state's own is put back. -/
theorem armedTaskBlocksNothing : Obligations.ArmedTaskBlocksNothing := by
  intro i s p hfire
  constructor
  · rintro ⟨t, h⟩
    exact exec_moves_with_pace (s := { s with pace := p }) s.pace hfire h
  · rintro ⟨t, h⟩
    exact exec_moves_with_pace p hfire h

/-- Settles O20: the confirmation leaves `left` (`confirmWrite_of_left`), and the arm takes the free value (`paceArm_of_ge`). -/
theorem deadlineBeyondTimeBaseIsFree : Obligations.DeadlineBeyondTimeBaseIsFree := by
  intro s left hleft hne hbeyond
  obtain ⟨hw, hconfirm⟩ := confirmWrite_of_left hleft
  rw [exec_writeDone, execWriteDone_of_nonempty hw (by rwa [hconfirm]), hconfirm]
  exact congrArg Host.Outcome.next (paceArm_of_ge _ hbeyond)

/-- Settles O21: at or after the deadline the outcome is `fireSlice`, and otherwise PACE_FIRE is not enabled. -/
theorem paceFireIssuesNextSlice : Obligations.PaceFireIssuesNextSlice := by
  refine fun s => ⟨fun d hp hd => ?_, fun hp => ?_, fun d hp hd => ?_⟩
  · exact execPaceFire_of_enabled hp hd
  · exact execPaceFire_of_not_enabled (by simp [hp])
  · exact execPaceFire_of_not_enabled (by simpa [hp] using hd)

end Sys2Proof.Machine
end

section
/-! SUPPORT. What the receiver answers under each condition (43_receiver.md R131 to R134): the refusals, the three steps, a
datagram it expects, and where READY_BYTES comes from (R138). -/

namespace Sys2Proof.Machine

/-! ### The domain (R131) -/

theorem rxRefusal_of_oversize {d : Bytes} (s : State) (h : 1400 < d.length) : rxRefusal s d = some .rxOversize :=
  if_pos h

theorem rxRefusal_of_cap_lt {d : Bytes} {s : State} {cap : Nat} (hl : d.length ≤ 1400) (hc : s.params.bufCap = some cap)
    (hpos : 0 < s.rem.toInt) (hlt : cap < s.rxbuf.length + d.length) : rxRefusal s d = some .bufferCap := by
  have hcap : exceedsCap s.params.bufCap (s.rxbuf.length + d.length) = true := (exceedsCap_eq_true _ _).mpr ⟨cap, hc, hlt⟩
  exact (if_neg (not_lt.mpr hl)).trans (if_pos ⟨hpos, hcap⟩)

/-! ### Steps 1 and 2 (R132, R133) -/

theorem takeDatagram_of_accumulating {s : State} (h : 0 < s.rem.toInt) (d : Bytes) : takeDatagram d s = accumulate d s :=
  if_pos h

theorem takeDatagram_of_pending {s : State} (hr : s.rem.toInt ≤ 0) (hb : s.rxbuf ≠ []) (d : Bytes) :
    takeDatagram d s = complete s :=
  (if_neg (not_lt.mpr hr)).trans (if_pos (List.length_pos_iff.mpr hb))

theorem takeDatagram_of_idle {s : State} (hr : s.rem.toInt ≤ 0) (hb : s.rxbuf = []) (d : Bytes) : takeDatagram d s = s :=
  (if_neg (not_lt.mpr hr)).trans (if_neg (by simp [hb]))

/-- Completing leaves REM alone where it is 0 already (DONE_PENDING of R130). -/
theorem complete_of_rem_zero {s : State} (h : s.rem = 0) :
    complete s = { s with rxbuf := [], outputs := s.outputs ++ [.readyBytes s.rxbuf, .decodeReq s.rxbuf] } := by
  simp [complete, emit, ← h]

/-- Step 1 with REM written on `Int` (R9). -/
theorem accumulate_eq (d : Bytes) (s : State) :
    accumulate d s = { s with rem := BitVec.ofInt 16 (s.rem.toInt - 1), rxbuf := s.rxbuf ++ d, rxTs := s.now } := by
  rw [accumulate, rem_sub_one]

/-! ### Step 3 (R134) -/

theorem recognise_of_ne {d : Bytes} (h : d.length ≠ 4) (s : State) : recognise d s = s := if_neg h

theorem recognise_of_ok {d : Bytes} {s : State} {c : S16} (hl : d.length = 4)
    (hd : decodeHeader s.params.crc s.params.hdrOrder d = .ok c) : recognise d s = { s with rem := c, rxTs := s.now } :=
  (if_pos hl).trans (by rw [hd])

theorem recognise_of_error {d : Bytes} {s : State} {r : HeaderReject} (hl : d.length = 4)
    (hd : decodeHeader s.params.crc s.params.hdrOrder d = .error r) : recognise d s = raise (.headerReject r d) s :=
  (if_pos hl).trans (by rw [hd])

/-- The three datagram classes of R141's table. -/
theorem next_recognise (d : Bytes) (s : State) :
    (d.length ≠ 4 → (.next (recognise d s) : Outcome) = .next s) ∧
    (∀ c, d.length = 4 → decodeHeader s.params.crc s.params.hdrOrder d = .ok c →
      (.next (recognise d s) : Outcome) = .next { s with rem := c, rxTs := s.now }) ∧
    (∀ r, d.length = 4 → decodeHeader s.params.crc s.params.hdrOrder d = .error r →
      (.next (recognise d s) : Outcome) = .next { s with outputs := s.outputs ++ [.log (.headerReject r d)] }) :=
  ⟨fun hl => congrArg _ (recognise_of_ne hl s), fun _ hl hd => congrArg _ (recognise_of_ok hl hd),
    fun _ hl hd => congrArg _ (recognise_of_error hl hd)⟩

/-- Step 3 leaves RXBUF alone and hands out no bytes. -/
theorem recognise_readyBytes (d : Bytes) (s : State) :
    (recognise d s).rxbuf = s.rxbuf ∧
      ∃ os, (recognise d s).outputs = s.outputs ++ os ∧ ∀ bytes, .readyBytes bytes ∉ os := by
  rcases recognise_cases d s with ⟨_, e⟩ | ⟨_, _, _, e⟩ | ⟨_, _, _, e⟩ <;> rw [e]
  · exact ⟨rfl, [], by simp, by simp⟩
  · exact ⟨rfl, [], by simp, by simp⟩
  · exact ⟨rfl, _, rfl, by simp⟩

/-! ### A datagram the receiver expects (R132) -/

/-- A receiver that expects datagrams only accumulates one that is no header candidate. -/
theorem receive_of_expected {d : Bytes} {s : State} (hb : s.bound = true) (hpos : 0 < s.rem.toInt) (hl : d.length ≤ 1400)
    (hne : d.length ≠ 4) (hc : ∀ cap, s.params.bufCap = some cap → s.rxbuf.length + d.length ≤ cap) :
    receive d s = .next (accumulate d s) := by
  rw [receive_of_accepted hb (rxRefusal_eq_none hl fun cap hcap _ => hc cap hcap), takeDatagram_of_accumulating hpos,
    recognise_of_ne hne]

/-! ### READY_BYTES (R133, R138) -/

/-- A datagram's arrival hands out bytes only by step 2. -/
theorem receive_readyBytes {d bytes : Bytes} {s t : State} (h : receive d s = .next t)
    (hmem : .readyBytes bytes ∈ newOutputs s t) :
    s.rem.toInt ≤ 0 ∧ s.rxbuf ≠ [] ∧ bytes = s.rxbuf ∧ t.rxbuf = [] := by
  obtain ⟨_, ⟨_, _, rfl⟩ | ⟨_, rfl⟩⟩ := receive_next h
  · simp [newOutputs] at hmem
  · obtain ⟨hrxbuf, os, hos, hnone⟩ := recognise_readyBytes d (takeDatagram d s)
    rcases takeDatagram_cases d s with ⟨_, e⟩ | ⟨hr, hb, e⟩ | ⟨_, _, e⟩ <;> rw [e] at hrxbuf hos hmem
    · exact absurd (newOutputs_of_append hos ▸ hmem) (hnone bytes)
    · rw [complete_outputs, List.append_assoc, List.append_assoc] at hos
      rw [newOutputs_of_append hos] at hmem
      exact ⟨hr, hb, by simpa [hnone] using hmem, e ▸ hrxbuf⟩
    · exact absurd (newOutputs_of_append hos ▸ hmem) (hnone bytes)

/-- No other instruction emits READY_BYTES. -/
theorem delivers_of_readyBytes {i : Instr} {s t : State} {bytes : Bytes} (h : exec i s = .next t)
    (hmem : .readyBytes bytes ∈ newOutputs s t) : ∃ d, Delivers i s.params.hdrOrder d := by
  cases exec_effect h with
  | datagram hi => exact ⟨_, hi⟩
  | reserved0 | reservedF | sendDropped | sendRefused | sendAccepted | lastWriteDone | writeDoneArms | paceFire | xportError
  | setMsd | setMss | setDest | bindOk | bindFailed | getMsd | getMss | isStreaming | tick | reset =>
    simp [newOutputs] at hmem

end Sys2Proof.Machine
end

section
/-! PROOF. The statements about the Receiver Engine (43_receiver.md). -/

namespace Sys2Proof.Machine

/-- Settles O32: an accepted datagram is steps 1 and 2, which R130's states tell apart, and then step 3, whose outcomes are the
three datagram classes (`next_recognise`). -/
theorem receiverTransitionTable : Obligations.ReceiverTransitionTable := by
  intro s i d hbound hi hlength hcap
  rw [exec_of_delivers hi, receive_of_accepted hbound (rxRefusal_eq_none hlength hcap)]
  refine ⟨fun hrem hempty => ?_, fun hrem hheld => ?_, fun hpos => ?_⟩
  · rw [takeDatagram_of_idle hrem hempty]
    exact next_recognise d s
  · rw [takeDatagram_of_pending (by simp [hrem]) hheld]
    have hrows := next_recognise d (complete s)
    rw [complete_of_rem_zero hrem] at hrows ⊢
    simpa only [List.append_assoc, List.cons_append, List.nil_append] using hrows
  · rw [takeDatagram_of_accumulating hpos, accumulate_eq]
    exact next_recognise d _

/-- Settles O33: under each clause `rxRefusal` answers that reason, and the refusal is the mark alone. -/
theorem inboundDatagramRefused : Obligations.InboundDatagramRefused := by
  intro s i d hbound hi
  rw [exec_of_delivers hi]
  refine ⟨fun hlong => ?_, fun cap hlength hcap hpos hlt => ?_⟩
  · exact receive_of_refused hbound (rxRefusal_of_oversize s hlong)
  · exact receive_of_refused hbound (rxRefusal_of_cap_lt hlength hcap hpos hlt)

/-- Settles O36, by induction on the datagrams: each is accumulated (`receive_of_expected`), and one fewer is then expected. -/
theorem expectedDatagramsAssemble : Obligations.ExpectedDatagramsAssemble := by
  intro s ds hbound hrefused hcap hrem hds
  induction ds generalizing s with
  | nil => exact ⟨s, rfl, BitVec.eq_of_toInt_eq hrem, by simp, rfl, hrefused⟩
  | cons d ds ih =>
    obtain ⟨⟨hlength, hne⟩, hds'⟩ := List.forall_mem_cons.mp hds
    simp only [List.flatten_cons, List.length_append, List.length_cons] at hcap hrem
    have hpos : 0 < s.rem.toInt := by omega
    have hfirst : receive d s = .next (accumulate d s) :=
      receive_of_expected hbound hpos hlength hne fun cap hc => by
        have hroom := hcap cap hc
        omega
    have hcap' : ∀ cap, s.params.bufCap = some cap → (s.rxbuf ++ d).length + ds.flatten.length ≤ cap := by
      simpa only [List.length_append, Nat.add_assoc] using hcap
    have hrem' : (s.rem - 1).toInt = ds.length := by
      rw [rem_sub_one_toInt hpos]
      omega
    obtain ⟨t, hrun, hdone, hrxbuf, hout, href⟩ := ih (accumulate d s) hbound hrefused hcap' hrem' hds'
    refine ⟨t, ?_, hdone, ?_, hout, href⟩
    · rw [List.map_cons, execAll_cons, exec_rxDgram, hfirst, andThen_of_next, hrun]
    · rw [hrxbuf, accumulate_rxbuf, List.append_assoc, List.flatten_cons]

/-- Settles O38: only a datagram's arrival emits READY_BYTES (`delivers_of_readyBytes`), and there only step 2
(`receive_readyBytes`). -/
theorem readyBytesOnlyWhenPending : Obligations.ReadyBytesOnlyWhenPending := by
  intro i s t bytes h hmem
  obtain ⟨d, hi⟩ := delivers_of_readyBytes h hmem
  obtain ⟨hrem, hheld, hbytes, hcleared⟩ := receive_readyBytes (exec_of_delivers hi ▸ h) hmem
  exact ⟨hrem, hheld, hbytes, hcleared, d, hi⟩

end Sys2Proof.Machine
end

section
/-! SUPPORT. What the statements on configuration and time need (44_config.md): TICK below NOW, STREAMING read off TXBUF, and an
element that no instruction of a run writes. -/

namespace Sys2Proof.Machine

/-- TICK to a time below NOW (R158). -/
theorem execTick_of_lt {s : State} {u : U64} (h : u.toNat < s.now.toNat) : execTick u s = .fault .tickNoMove :=
  if_neg (by simpa [State.tickEnabled] using h)

/-- STREAMING as a test on the list itself (R157). -/
theorem streaming_eq_not_isEmpty (s : State) : s.streaming = !s.txbuf.isEmpty := by
  rw [State.streaming]
  cases s.txbuf with
  | nil => rfl
  | cons b bs => simp

/-- What each instruction of a run keeps, the run keeps. -/
theorem execAll_keeps {α : Type} (element : State → α) {is : List Instr} {s t : State}
    (hkeep : ∀ i ∈ is, ∀ u w, exec i u = .next w → element w = element u) (h : execAll is s = .next t) :
    element t = element s := by
  induction is generalizing s with
  | nil =>
    cases h
    rfl
  | cons i is ih =>
    obtain ⟨u, hu, hrest⟩ := andThen_next h
    obtain ⟨hkeepi, hkeepis⟩ := List.forall_mem_cons.mp hkeep
    exact (ih hkeepis hrest).trans (hkeepi s u hu)

/-- MSD after SET_MSD(v) and a run that does not write it (R150). -/
theorem execAll_setMsd_msd {s t : State} {v : U16} {is : List Instr} (hi : ∀ i ∈ is, i ≠ .reset ∧ ∀ w, i ≠ .setMsd w)
    (h : execAll (.setMsd v :: is) s = .next t) : t.msd = v := by
  refine execAll_keeps State.msd (fun i hmem u w hexec => ?_) (s := { s with msd := v }) h
  obtain ⟨hreset, hset⟩ := hi i hmem
  obtain ⟨hmsd, _⟩ := elementsWrittenOnlyByTheirOperations i u w hexec hreset
  exact hmsd hset

/-- MSS after SET_MSS(v) and a run that does not write it (R152). -/
theorem execAll_setMss_mss {s t : State} {v : U16} {is : List Instr} (hi : ∀ i ∈ is, i ≠ .reset ∧ ∀ w, i ≠ .setMss w)
    (h : execAll (.setMss v :: is) s = .next t) : t.mss = v := by
  refine execAll_keeps State.mss (fun i hmem u w hexec => ?_) (s := { s with mss := v }) h
  obtain ⟨hreset, hset⟩ := hi i hmem
  obtain ⟨_, hmss, _⟩ := elementsWrittenOnlyByTheirOperations i u w hexec hreset
  exact hmss hset

end Sys2Proof.Machine
end

section
/-! PROOF. The statements about configuration, queries and the time base (44_config.md). -/

namespace Sys2Proof.Machine

/-- Settles O30: the two answers of TICK's enabling condition. -/
theorem tickSetsNow : Obligations.TickSetsNow :=
  fun _ _ => ⟨execTick_of_le, execTick_of_lt⟩

/-- Settles O39: SET_MSD's arm is this one update. -/
theorem setMsdStoresValue : Obligations.SetMsdStoresValue :=
  fun s v => exec_setMsd v s

/-- Settles O40: SET_MSS's arm is this one update. -/
theorem setMssStoresValue : Obligations.SetMssStoresValue :=
  fun s v => exec_setMss v s

/-- Settles O41: SET_DEST's arm is this one update. -/
theorem setDestStoresEndpoint : Obligations.SetDestStoresEndpoint :=
  fun s a port => exec_setDest a port s

/-- Settles O42: each query's arm appends its one answer, and STREAMING says whether TXBUF holds bytes. -/
theorem queriesReturnStatus : Obligations.QueriesReturnStatus := by
  refine fun s => ⟨exec_getMsd s, exec_getMss s, ?_⟩
  rw [← streaming_eq_not_isEmpty]
  exact exec_isStreaming s

/-- Settles O43: the value stored is still there at the end (`execAll_setMsd_msd`, `execAll_setMss_mss`), and the query returns
what is there (O42). It holds for every value of REFUSED, since a refused step writes neither element. -/
theorem configReadsBackLastWrite : Obligations.ConfigReadsBackLastWrite := by
  intro s t v is
  obtain ⟨hgetMsd, hgetMss, _⟩ := queriesReturnStatus t
  refine ⟨fun hi hrun _ => ?_, fun hi hrun _ => ?_⟩
  · rwa [← execAll_setMsd_msd hi hrun]
  · rwa [← execAll_setMss_mss hi hrun]

/-- Settles O44: with the verdict given, BIND's arm is one update, and a failure raises the log entry on top of it. -/
theorem bindRecordsVerdict : Obligations.BindRecordsVerdict :=
  fun s a port => ⟨exec_bind a port true s, exec_bind a port false s⟩

end Sys2Proof.Machine
end

section
/-! SUPPORT. What the statements on exceptions need (60_exceptions.md): what an event does to REFUSED and to the refusal record
(R178), over a run too (R202), that SEND always has a move (R183), a datagram while unbound (R187), and the events of a link (R189). -/

namespace Sys2Proof.Machine

/-! ### The mark (R178) -/

/-- The arrival of a datagram that is not refused touches neither the mark nor the record. -/
theorem receive_mark {d : Bytes} {s t : State} (h : receive d s = .next t) :
    (∃ r, t = refuse r s) ∨ t.refusals = s.refusals ∧ t.refused = s.refused := by
  obtain ⟨_, ⟨r, _, rfl⟩ | ⟨_, rfl⟩⟩ := receive_next h
  · exact .inl ⟨r, rfl⟩
  · right
    rcases takeDatagram_cases d s with ⟨_, e⟩ | ⟨_, _, e⟩ | ⟨_, _, e⟩ <;> rw [e] <;>
      rcases recognise_cases d _ with ⟨_, e'⟩ | ⟨_, _, _, e'⟩ | ⟨_, _, _, e'⟩ <;> rw [e'] <;> exact ⟨rfl, rfl⟩

/-- An instruction is refused, or records no reason and leaves the mark alone, unless it is RESET, which clears it. -/
theorem exec_mark {i : Instr} {s t : State} (h : exec i s = .next t) :
    (∃ r, t = refuse r s) ∨ t.refusals = s.refusals ∧ (t.refused = s.refused ∨ i = .reset ∧ t.refused = false) := by
  cases exec_effect h with
  | reserved0 | reservedF | sendRefused => exact .inl ⟨_, rfl⟩
  | datagram _ hr => exact (receive_mark hr).imp_right (And.imp_right .inl)
  | reset => exact .inr ⟨rfl, .inr ⟨rfl, rfl⟩⟩
  | writeDoneArms => exact .inr ⟨by simp, .inl (by simp)⟩
  | sendDropped | sendAccepted | lastWriteDone | paceFire | xportError | setMsd | setMss | setDest | bindOk | bindFailed
  | getMsd | getMss | isStreaming | tick => exact .inr ⟨rfl, .inl rfl⟩

/-- The same for one event of a run, a word the decoder rejects included (R79). -/
theorem step_offerInput_mark {e : Input} {s t : State} (h : step (offerInput e s) = .next t) :
    (∃ r, t = refuse r s) ∨
      t.refusals = s.refusals ∧ (t.refused = s.refused ∨ tracedInstr (s, e) = some .reset ∧ t.refused = false) := by
  rw [step_offerInput] at h
  split at h
  · rename_i i hi
    have htraced : tracedInstr (s, e) = some i := by simp [tracedInstr, hi]
    simpa [htraced] using exec_mark h
  · exact .inl ⟨_, reject_next h⟩

/-- An unmarked state stays unmarked exactly when the event records no reason. -/
theorem step_offerInput_refusals {e : Input} {s t : State} (h : step (offerInput e s) = .next t) :
    ∃ rs, t.refusals = s.refusals ++ rs ∧ (s.refused = false → (t.refused = false ↔ rs = [])) := by
  obtain ⟨r, rfl⟩ | ⟨hsame, hmark⟩ := step_offerInput_mark h
  · exact ⟨[r], rfl, by simp⟩
  · refine ⟨[], by simpa using hsame, fun hclear => iff_of_true ?_ rfl⟩
    obtain hkept | ⟨_, hreset⟩ := hmark
    · exact hkept.trans hclear
    · exact hreset

/-- An event that is no RESET does not clear the mark. -/
theorem refused_false_of_step {e : Input} {s t : State} (h : step (offerInput e s) = .next t)
    (he : tracedInstr (s, e) ≠ some .reset) (ht : t.refused = false) : s.refused = false := by
  obtain ⟨r, rfl⟩ | ⟨_, hkept | ⟨hreset, _⟩⟩ := step_offerInput_mark h
  · cases ht
  · exact hkept.symm.trans ht
  · exact absurd hreset he

/-! ### The mark over a run (R202) -/

theorem noRefusal_nil (s : State) : NoRefusal [] s ↔ s.refused = false := by
  simp [NoRefusal, runStates]

/-- The first state of a run is one of its states. -/
theorem NoRefusal.start {es : List Input} {s : State} (h : NoRefusal es s) : s.refused = false :=
  h s (by cases es <;> simp [runStates])

/-- A run has NO_REFUSAL exactly when it starts unmarked and adds nothing to the record. -/
theorem runEvents_refusals {es : List Input} {s t : State} (h : runEvents es s = .next t) :
    ∃ rs, t.refusals = s.refusals ++ rs ∧ (NoRefusal es s ↔ s.refused = false ∧ rs = []) := by
  induction es generalizing s with
  | nil =>
    cases h
    exact ⟨[], by simp, by simp [noRefusal_nil]⟩
  | cons e es ih =>
    obtain ⟨u, hu, hrest⟩ := runEvents_cons_next h
    obtain ⟨rs, hrs, hstep⟩ := step_offerInput_refusals hu
    obtain ⟨rs', hrs', hrun⟩ := ih hrest
    refine ⟨rs ++ rs', by rw [hrs', hrs, List.append_assoc], ?_⟩
    rw [noRefusal_cons_next hu, hrun, List.append_eq_nil_iff]
    exact and_congr_right fun hclear => and_congr_left' (hstep hclear)

/-- Without a RESET the mark stays once set, so the run's last state tells. -/
theorem noRefusal_iff_end {es : List Input} {s t : State} (h : runEvents es s = .next t)
    (hes : ∀ p ∈ trace es s, tracedInstr p ≠ some .reset) : NoRefusal es s ↔ t.refused = false := by
  induction es generalizing s with
  | nil =>
    cases h
    exact noRefusal_nil _
  | cons e es ih =>
    obtain ⟨u, hu, hrest⟩ := runEvents_cons_next h
    rw [trace_cons_next hu] at hes
    obtain ⟨he, hes'⟩ := List.forall_mem_cons.mp hes
    rw [noRefusal_cons_next hu, ← ih hrest hes']
    exact and_iff_right_of_imp fun hrun => refused_false_of_step hu he hrun.start

/-! ### Moves and duties (R183, R187) -/

/-- SEND is dropped, refused or accepted. -/
theorem execSend_moves (d : Bytes) (s : State) : ∃ t, execSend d s = .next t := by
  by_cases hn : d = [] ∨ s.txbuf ≠ []
  · exact ⟨_, execSend_of_dropped hn⟩
  · obtain ⟨hd, hb⟩ : d ≠ [] ∧ s.txbuf = [] := by simpa using hn
    cases hr : sendRefusal s d with
    | some r => exact ⟨_, execSend_of_refused hd hb hr⟩
    | none => exact ⟨_, execSend_of_not_refused hd hb hr⟩

/-- A datagram while unbound (R131). -/
theorem receive_of_unbound {s : State} (h : s.bound = false) (d : Bytes) : receive d s = .fault .rxDgramNoMove :=
  if_neg (by simp [State.rxEnabled, h])

/-! ### Deliveries and losses on a link (R189) -/

/-- The arrival of a datagram issues none. -/
theorem txDatagrams_newOutputs_of_receive {d : Bytes} {s t : State} (h : receive d s = .next t) :
    txDatagrams (newOutputs s t) = [] := by
  obtain ⟨⟨os, hos, htx, _⟩, _⟩ := receive_frame h
  rw [newOutputs_of_append hos, htx]

@[simp] theorem Link.held_discard (l : Link) (e : Endpt) (n : Nat) : (l.discard e n).held e = (l.held e).eraseIdx n :=
  Link.held_mapHeld ..
@[simp] theorem Link.held_other_discard (l : Link) (e : Endpt) (n : Nat) :
    (l.discard e n).held e.other = l.held e.other :=
  Link.held_other_mapHeld ..
@[simp] theorem Link.held_other_keepDelivered (l : Link) (e : Endpt) (n : Nat) :
    (l.keepDelivered e n).held e.other = l.held e.other :=
  Link.held_other_mapHeld ..

/-- Marking the n-th datagram delivered replaces it by its delivered copy. -/
theorem Link.held_keepDelivered {l : Link} {e : Endpt} {n : Nat} {d : Transit} (h : (l.held e)[n]? = some d) :
    (l.keepDelivered e n).held e = (l.held e).set n { data := d.data, delivered := true } := by
  rw [Link.keepDelivered, Link.held_mapHeld, List.modify_eq_set_getElem?, h]
  rfl

/-- A delivery is of a datagram held for its end, which arrives there once the transport has marked it delivered or discarded it. -/
theorem Link.apply_deliver_next {l l' : Link} {e : Endpt} {n : Nat} {keep : Bool}
    (h : l.apply (.deliver e n keep) = some (.next l')) :
    ∃ d, (l.held e)[n]? = some d ∧
      (if keep then l.keepDelivered e n else l.discard e n).inputAt e (deliveryInput d.data) = .next l' := by
  rw [Link.apply] at h
  split at h
  · cases h
  · rename_i d hd
    exact ⟨d, hd, Option.some.inj h⟩

/-- A loss discards a datagram held for its end. -/
theorem Link.apply_lose_next {l l' : Link} {e : Endpt} {n : Nat} (h : l.apply (.lose e n) = some (.next l')) :
    n < (l.held e).length ∧ l' = l.discard e n := by
  rw [Link.apply] at h
  split at h
  · cases h
  · rename_i d hd
    obtain ⟨hn, _⟩ := List.getElem?_eq_some_iff.mp hd
    cases h
    exact ⟨hn, rfl⟩

/-- The arrival of a delivery is RX_DGRAM at its end, and nothing goes back to the other end. -/
theorem Link.inputAt_deliveryInput_next {l l' : Link} {e : Endpt} {d : Bytes}
    (h : l.inputAt e (deliveryInput d) = .next l') :
    exec (.rxDgram d) (l.at e) = .next (l'.at e) ∧ l'.at e.other = l.at e.other ∧ l'.held e = l.held e ∧
      l'.held e.other = l.held e.other := by
  obtain ⟨t, ht, rfl⟩ := Link.inputAt_next h
  rw [step_deliveryInput] at ht
  have hnone : txDatagrams (newOutputs (l.at e) t) = [] := txDatagrams_newOutputs_of_receive ht
  simpa [hnone] using ht

end Sys2Proof.Machine
end

section
/-! PROOF. The statements about exceptions, refusals and the environment (60_exceptions.md). -/

namespace Sys2Proof.Machine

/-- Settles O35: SEND always moves (`execSend_moves`), a datagram's arrival is excluded, and each remaining arm is one update. -/
theorem otherEventsAlwaysMove : Obligations.OtherEventsAlwaysMove := by
  intro i s hwrite hfire htick hdelivers
  cases i with
  | send d => exact execSend_moves d s
  | bind a p ok => cases ok <;> exact ⟨_, rfl⟩
  | writeDone => exact absurd rfl hwrite
  | paceFire => exact absurd rfl hfire
  | tick t => exact absurd rfl (htick t)
  | rxDgram d => exact absurd (.inl rfl) (hdelivers d)
  | dataChunk d => exact absurd (.inr (.inl rfl)) (hdelivers d)
  | header c k => exact absurd (.inr (.inr ⟨c, k, rfl, rfl⟩)) (hdelivers _)
  | reserved0 | reservedF | xportError | setMsd | getMsd | setMss | getMss | setDest | isStreaming | reset => exact ⟨_, rfl⟩

/-- Settles O48: an instruction is refused or leaves the mark alone, but for RESET (`exec_mark`), whose reset value is unmarked. -/
theorem refusalOnlySetsMark : Obligations.RefusalOnlySetsMark := by
  intro i s t h
  constructor
  · refine (exec_mark h).imp_right fun ⟨hrecord, hmark⟩ => ⟨hrecord, fun hreset => ?_⟩
    exact hmark.resolve_right fun ⟨hi, _⟩ => hreset hi
  · rintro rfl
    cases h
    rfl

/-- Settles O49: without a RESET the mark is sticky (`noRefusal_iff_end`), and in any run the record grows exactly when the mark is
set (`runEvents_refusals`). -/
theorem noRefusalReadOffAtTheEnd : Obligations.NoRefusalReadOffAtTheEnd := by
  refine fun es s t h => ⟨noRefusal_iff_end h, ?_⟩
  obtain ⟨rs, hrs, hrun⟩ := runEvents_refusals h
  rw [hrun, hrs, List.append_right_eq_self]

/-- Settles O7: with nothing pending the step takes its idle branch. -/
theorem stepIdlesWithoutInput : Obligations.StepIdlesWithoutInput := by
  intro s hidle
  rw [step, hidle]

/-- Settles O34: in each case the enabling condition fails. -/
theorem environmentDutiesHaveNoMove : Obligations.EnvironmentDutiesHaveNoMove := by
  refine fun s => ⟨execWriteDone_of_none, fun i d hi hunbound => ?_, fun t => execTick_of_lt⟩
  rw [exec_of_delivers hi, receive_of_unbound hunbound]

/-- Settles O45: XPORT_ERROR's arm is this one update with the log entry raised on top of it. -/
theorem transportErrorClearsBothEngines : Obligations.TransportErrorClearsBothEngines :=
  fun s info => exec_xportError info s

/-- Settles O46: the rows of `ErrorCond.code`. -/
theorem logCodesOfConditions : Obligations.LogCodesOfConditions :=
  fun _ _ _ => ⟨rfl, rfl, rfl, rfl⟩

/-- Settles O60: an input is a step at its end that adds to the other end's transit (`Link.inputAt_next`), a delivery adds nothing
(`Link.inputAt_deliveryInput_next`), and what leaves an end's transit touches no state. -/
theorem linkEndsShareNoState : Obligations.LinkEndsShareNoState := by
  refine fun l l' => ⟨fun e i h => ?_, fun e n keep h => ?_, fun e n h => ?_⟩
  · obtain ⟨t, ht, rfl⟩ := Link.inputAt_next (Option.some.inj h)
    simpa [Transit.issued] using ht
  · obtain ⟨d, hd, hinput⟩ := Link.apply_deliver_next h
    obtain ⟨hexec, hother, hheld, hheldOther⟩ := Link.inputAt_deliveryInput_next hinput
    refine ⟨d, hd, ?_⟩
    cases keep with
    | false => simpa [hother, hheld, hheldOther] using hexec
    | true => simpa [hother, hheld, hheldOther, Link.held_keepDelivered hd] using hexec
  · obtain ⟨hn, rfl⟩ := Link.apply_lose_next h
    exact ⟨hn, Link.at_discard l e .a n, Link.at_discard l e .b n, Link.held_other_discard .., Link.held_discard ..⟩

end Sys2Proof.Machine
end

section
/-! SUPPORT. What the statements on resets and hazards need (70_reset_and_hazards.md): the chunks a receiver gets and the header
that announces them (R210), the end of a run (R215, R216), the other byte order's checksum test (R212), and what DEST_SET and
RX_READY leave a run to do (R202, R203). -/

namespace Sys2Proof.Machine

/-! ### A stream at the receiver (R210) -/

@[simp] theorem chunksOf_length (data : Bytes) (cs : Nat) : (chunksOf data cs).length = chunkTotal data.length cs := by
  simp [chunksOf]

theorem length_le_of_mem_chunksOf {data d : Bytes} {cs : Nat} (h : d ∈ chunksOf data cs) : d.length ≤ cs := by
  obtain ⟨i, _, rfl⟩ := List.mem_map.mp h
  exact List.length_take_le ..

/-- CEIL announces the number of chunks, which for an accepted SEND is in DECODE's range. -/
theorem announced_count_toInt {s : State} {data : Bytes} (h : Accepts s data) (hmode : s.params.countMode = .ceil) :
    (BitVec.ofNat 16 (chunkCount s.params.countMode data.length (min 1400 s.mss.toNat)) : S16).toInt =
      (chunksOf data (min 1400 s.mss.toNat)).length := by
  obtain ⟨_, _, _, hcount, _⟩ := h
  rw [hmode] at hcount ⊢
  have htoNat : (BitVec.ofNat 16 (chunkCount .ceil data.length (min 1400 s.mss.toNat))).toNat =
      chunkCount .ceil data.length (min 1400 s.mss.toNat) := Nat.mod_eq_of_lt (by omega)
  rw [BitVec.toInt_eq_toNat_of_lt (by omega), htoNat, chunksOf_length]
  rfl

/-- A header with a positive count starts an idle receiver with the same codec (R134, R141). -/
theorem receive_encodeHeader_of_idle {s : State} {c : S16} (hbound : s.bound = true) (hrem : s.rem.toInt ≤ 0)
    (hempty : s.rxbuf = []) (hc : 0 < c.toInt) :
    receive (encodeHeader s.params.crc s.params.hdrOrder c) s = .next { s with rem := c, rxTs := s.now } := by
  have hlength : (encodeHeader s.params.crc s.params.hdrOrder c).length = 4 := headerBytes_length ..
  have hdomain : rxRefusal s (encodeHeader s.params.crc s.params.hdrOrder c) = none :=
    rxRefusal_eq_none (by omega) fun _ _ hpos => absurd hpos (not_lt.mpr hrem)
  rw [receive_of_accepted hbound hdomain, takeDatagram_of_idle hrem hempty,
    recognise_of_ok hlength (decodeHeader_encodeHeader hc)]

/-- A header that announces the datagrams behind it starts an idle receiver, which then holds them in arrival order (O36). -/
theorem execAll_announced_datagrams {s : State} {ds : List Bytes} {c : S16} (hbound : s.bound = true)
    (hrem : s.rem.toInt ≤ 0) (hempty : s.rxbuf = []) (hrefused : s.refused = false)
    (hcap : ∀ cap, s.params.bufCap = some cap → ds.flatten.length ≤ cap) (hne : ds ≠ [])
    (hc : c.toInt = ds.length) (hds : ∀ d ∈ ds, d.length ≤ 1400 ∧ d.length ≠ 4) :
    ∃ t, execAll ((encodeHeader s.params.crc s.params.hdrOrder c :: ds).map .rxDgram) s = .next t ∧
      t.rem = 0 ∧ t.rxbuf = ds.flatten ∧ t.outputs = s.outputs ∧ t.refused = false := by
  have hpos : 0 < c.toInt := by
    rw [hc]
    exact_mod_cast List.length_pos_iff.mpr hne
  obtain ⟨t, hrun, hdone, hrxbuf, hout, href⟩ := expectedDatagramsAssemble { s with rem := c, rxTs := s.now } ds hbound
    hrefused (by simpa [hempty] using hcap) hc hds
  refine ⟨t, ?_, hdone, by rw [hrxbuf, hempty, List.nil_append], hout, href⟩
  rw [List.map_cons, execAll_cons, exec_rxDgram, receive_encodeHeader_of_idle hbound hrem hempty hpos, andThen_of_next,
    hrun]

/-! ### The end of a run (R215, R216) -/

/-- With something to send a write is outstanding or a deadline is armed (R40). -/
theorem SenderControl.over_iff {s : State} (hs : SenderControl s) : Over s ↔ s.txbuf = [] := by
  obtain ⟨hempty, hbusy⟩ := hs
  refine ⟨fun ⟨hw, hp⟩ => ?_, hempty⟩
  by_contra hx
  obtain ⟨hne, _⟩ | ⟨_, d, harmed⟩ := hbusy hx
  · exact hne hw
  · simp [hp] at harmed

/-- The oldest datagram not yet transferred (R82) is none when all those held have reached their end. -/
theorem Link.oldest_eq_none_iff {l : Link} {dst : Endpt} :
    l.oldest dst = none ↔ ∀ d ∈ l.held dst, d.delivered = true := by
  simp [Link.oldest]

/-! ### The other byte order's checksum test (R212) -/

/-- Under the order that reads the checksum bytes the other way round, the checksum read is the one computed exactly when the two
bytes are equal. -/
theorem decodeHeader_encodeHeader_swapped (alg : CrcAlg) {o o' : HdrOrder} (c : S16)
    (hswap : ∀ x y, fieldOf o' x y = fieldOf o y x) :
    decodeHeader alg o' (encodeHeader alg o c) ≠ .error .crcMismatch ↔
      (encodeHeader alg o c)[2]? = (encodeHeader alg o c)[3]? := by
  obtain ⟨b0, b1, b2, b3, hbytes, hcrc⟩ := encodeHeader_eq_four alg o c
  rw [hbytes, decodeHeader_ne_crcMismatch, hcrc, hswap, fieldOf_inj, and_iff_left_of_imp Eq.symm]
  exact Option.some_inj.symm

/-! ### The first event of a kind in a run (R202) -/

/-- One event of a run runs the instruction it stands for, or is a word that R79 refuses. -/
theorem step_offerInput_next {ev : Input} {s t : State} (h : step (offerInput ev s) = .next t) :
    (∃ i, tracedInstr (s, ev) = some i ∧ exec i s = .next t) ∨
      (tracedInstr (s, ev) = none ∧ t = refuse .reservedCmd s) := by
  rw [step_offerInput] at h
  split at h
  · rename_i i hi
    exact .inl ⟨i, by simp [tracedInstr, hi], h⟩
  · rename_i r hr
    exact .inr ⟨by simp [tracedInstr, hr], reject_next h⟩

/-- The first event is of the kind. -/
theorem stateAtFirst_cons_of_kind {kind : Instr → Bool} {ev : Input} {s : State} (es : List Input)
    (hkind : (tracedInstr (s, ev)).any kind = true) : stateAtFirst kind (ev :: es) s = some s := by
  rw [stateAtFirst, trace, List.find?_cons_of_pos (by exact hkind)]
  rfl

/-- The first event is of another kind: the one looked for is in the rest of the run. -/
theorem stateAtFirst_cons_of_not_kind {kind : Instr → Bool} {ev : Input} {es : List Input} {s u : State}
    (hu : step (offerInput ev s) = .next u) (hkind : ¬ (tracedInstr (s, ev)).any kind = true) :
    stateAtFirst kind (ev :: es) s = stateAtFirst kind es u := by
  rw [stateAtFirst, trace_cons_next hu, List.find?_cons_of_neg (by exact hkind), stateAtFirst]

/-! ### Datagrams issued to UNSET (R202, R203) -/

/-- A datagram is issued to the current DEST (R56), and only by a SEND or while something is in flight. -/
theorem exec_tx_dest {i : Instr} {s t : State} (h : exec i s = .next t) :
    ∃ os, t.outputs = s.outputs ++ os ∧
      ∀ dest data, .tx dest data ∈ os → dest = s.dest ∧ (isSend i = true ∨ ¬ NothingInFlight s) := by
  cases exec_effect h with
  | sendAccepted => exact ⟨_, acceptSend_outputs .., by simp [isSend]⟩
  | paceFire hp _ => exact ⟨_, fireSlice_outputs s, by simp [NothingInFlight, hp]⟩
  | datagram _ hr =>
    obtain ⟨⟨os, hos, htx, _⟩, _⟩ := receive_frame hr
    refine ⟨os, hos, fun dest data hmem => ?_⟩
    have hnone : txDatagram (.tx dest data) = none := List.filterMap_eq_nil_iff.mp htx _ hmem
    cases hnone
  | sendDropped | lastWriteDone | xportError | bindFailed | getMsd | getMss | isStreaming => exact ⟨_, rfl, by simp⟩
  | reserved0 | reservedF | sendRefused | writeDoneArms | setMsd | setMss | setDest | bindOk | tick | reset =>
    exact ⟨[], by simp, by simp⟩

/-- Nothing but RESET unsets DEST. -/
theorem exec_dest_ne_unset {i : Instr} {s t : State} (h : exec i s = .next t) (hreset : i ≠ .reset)
    (hdest : s.dest ≠ .unset) : t.dest ≠ .unset := by
  by_cases hset : ∃ a p, i = .setDest a p
  · obtain ⟨a, p, rfl⟩ := hset
    cases h
    simp
  · obtain ⟨_, _, hkept, _⟩ := elementsWrittenOnlyByTheirOperations i s t h hreset
    rwa [hkept fun a p hi => hset ⟨a, p, hi⟩]

/-- Only a SEND puts something in flight where nothing is. -/
theorem NothingInFlight.exec {i : Instr} {s t : State} (hs : NothingInFlight s) (h : exec i s = .next t)
    (hsend : ¬ isSend i = true) : NothingInFlight t := by
  obtain ⟨hw, hp⟩ := hs
  cases exec_effect h with
  | sendDropped | sendRefused | sendAccepted => exact absurd rfl hsend
  | lastWriteDone hne | writeDoneArms hne => exact absurd hw hne
  | paceFire harmed => simp [hp] at harmed
  | datagram _ hr =>
    obtain ⟨_, _, hw', hp', _⟩ := receive_frame hr
    exact ⟨hw'.trans hw, hp'.trans hp⟩
  | xportError | reset => exact ⟨rfl, rfl⟩
  | reserved0 | reservedF | setMsd | setMss | setDest | bindOk | bindFailed | getMsd | getMss | isStreaming | tick =>
    exact ⟨hw, hp⟩

/-- The invariant behind DEST_SET: DEST is set, or nothing is in flight and DEST will be set before the first SEND. -/
def DestSetInTime (e : Endpoint) (es : List Input) (s : State) : Prop :=
  s.dest ≠ .unset ∨ NothingInFlight s ∧ DestSet e es s

/-- With DEST still unset the next event is no SEND. -/
theorem DestSetInTime.of_unset {e : Endpoint} {ev : Input} {es : List Input} {s : State}
    (h : DestSetInTime e (ev :: es) s) (hunset : s.dest = .unset) :
    NothingInFlight s ∧ ¬ (tracedInstr (s, ev)).any isSend = true := by
  obtain ⟨hidle, hset⟩ := h.resolve_left (not_not.mpr hunset)
  refine ⟨hidle, fun hsend => ?_⟩
  have hdest : s.dest = .set e := hset s (stateAtFirst_cons_of_kind es hsend)
  simp [hunset] at hdest

/-- The rest of the run has the invariant too. -/
theorem DestSetInTime.tail {e : Endpoint} {ev : Input} {es : List Input} {s u : State}
    (h : DestSetInTime e (ev :: es) s) (hu : step (offerInput ev s) = .next u)
    (hreset : tracedInstr (s, ev) ≠ some .reset) : DestSetInTime e es u := by
  by_cases hunset : s.dest = .unset
  · obtain ⟨hidle, hsend⟩ := h.of_unset hunset
    obtain ⟨_, hset⟩ := h.resolve_left (not_not.mpr hunset)
    refine .inr ⟨?_, fun w hw => hset w ((stateAtFirst_cons_of_not_kind hu hsend).trans hw)⟩
    obtain ⟨i, hi, hexec⟩ | ⟨_, rfl⟩ := step_offerInput_next hu
    · exact hidle.exec hexec (by simpa [hi] using hsend)
    · exact hidle
  · left
    obtain ⟨i, hi, hexec⟩ | ⟨_, rfl⟩ := step_offerInput_next hu
    · exact exec_dest_ne_unset hexec (fun hr => hreset (hr ▸ hi)) hunset
    · exact hunset

theorem DestSetInTime.first_outputs {e : Endpoint} {ev : Input} {es : List Input} {s u : State}
    (h : DestSetInTime e (ev :: es) s) (hu : step (offerInput ev s) = .next u) :
    ∃ os, u.outputs = s.outputs ++ os ∧ ∀ data, .tx .unset data ∉ os := by
  obtain ⟨i, hi, hexec⟩ | ⟨_, rfl⟩ := step_offerInput_next hu
  · obtain ⟨os, hos, htx⟩ := exec_tx_dest hexec
    refine ⟨os, hos, fun data hmem => ?_⟩
    obtain ⟨hdest, hissues⟩ := htx _ data hmem
    obtain ⟨hidle, hsend⟩ := h.of_unset hdest.symm
    exact hissues.elim (by simpa [hi] using hsend) (absurd hidle)
  · exact ⟨[], by simp, by simp⟩

theorem DestSetInTime.run_outputs {e : Endpoint} {es : List Input} {s t : State} (h : DestSetInTime e es s)
    (hreset : ∀ p ∈ trace es s, tracedInstr p ≠ some .reset) (hrun : runEvents es s = .next t) :
    ∃ os, t.outputs = s.outputs ++ os ∧ ∀ data, .tx .unset data ∉ os := by
  induction es generalizing s with
  | nil =>
    cases hrun
    exact ⟨[], by simp, by simp⟩
  | cons ev es ih =>
    obtain ⟨u, hu, hrest⟩ := runEvents_cons_next hrun
    rw [trace_cons_next hu] at hreset
    obtain ⟨hfirst, hreset'⟩ := List.forall_mem_cons.mp hreset
    obtain ⟨os, hos, hnone⟩ := h.first_outputs hu
    obtain ⟨os', hos', hnone'⟩ := ih (h.tail hu hfirst) hreset' hrest
    exact ⟨os ++ os', by rw [hos', hos, List.append_assoc], by simp [hnone, hnone']⟩

/-! ### Datagrams at an unbound end (R202, R187) -/

/-- Nothing but RESET and a failing BIND unbinds an end. -/
theorem exec_bound {i : Instr} {s t : State} (h : exec i s = .next t) (hreset : i ≠ .reset)
    (hbind : ∀ a p, i ≠ .bind a p false) (hbound : s.bound = true) : t.bound = true := by
  by_cases hok : ∃ a p, i = .bind a p true
  · obtain ⟨a, p, rfl⟩ := hok
    cases h
    rfl
  · obtain ⟨_, _, _, hkept, _⟩ := elementsWrittenOnlyByTheirOperations i s t h hreset
    obtain ⟨_, hsame⟩ := hkept fun a p ok => by
      cases ok with
      | false => exact hbind a p
      | true => exact fun hi => hok ⟨a, p, hi⟩
    exact hsame.trans hbound

/-- A bound end takes or refuses every datagram (R131). -/
theorem bound_eq_false_of_receive {d : Bytes} {s : State} {f : Fault} (h : receive d s = .fault f) : s.bound = false := by
  by_contra hbound
  rw [Bool.not_eq_false] at hbound
  cases hr : rxRefusal s d with
  | none => cases (receive_of_accepted hbound hr).symm.trans h
  | some r => cases (receive_of_refused hbound hr).symm.trans h

/-- Only the arrival of a datagram at an unbound end stops with this fault. -/
theorem exec_rxDgramNoMove {i : Instr} {s : State} (h : exec i s = .fault .rxDgramNoMove) :
    isDatagram i = true ∧ s.bound = false := by
  cases i with
  | rxDgram d | header c k | dataChunk d => exact ⟨rfl, bound_eq_false_of_receive h⟩
  | send d =>
    obtain ⟨t, ht⟩ := execSend_moves d s
    cases ht.symm.trans h
  | writeDone | paceFire | tick =>
    simp only [exec_writeDone, exec_paceFire, exec_tick, execWriteDone, execPaceFire, execTick] at h
    split_ifs at h
    cases h
  | bind a p ok => cases ok <;> cases h
  | reserved0 | reservedF | xportError | setMsd | getMsd | setMss | getMss | setDest | isStreaming | reset => cases h

theorem step_offerInput_rxDgramNoMove {ev : Input} {s : State} (h : step (offerInput ev s) = .fault .rxDgramNoMove) :
    (tracedInstr (s, ev)).any isDatagram = true ∧ s.bound = false := by
  rw [step_offerInput] at h
  split at h
  · rename_i i hi
    have htraced : tracedInstr (s, ev) = some i := by simp [tracedInstr, hi]
    simpa [htraced] using exec_rxDgramNoMove h
  · rename_i r _
    cases r <;> cases h

/-- The invariant behind RX_READY: the end is bound, or it will be before the first datagram. -/
def BoundInTime (e : Endpoint) (es : List Input) (s : State) : Prop :=
  s.bound = true ∨ RxReady e es s

theorem BoundInTime.of_datagram {e : Endpoint} {ev : Input} {es : List Input} {s : State}
    (h : BoundInTime e (ev :: es) s) (hdatagram : (tracedInstr (s, ev)).any isDatagram = true) : s.bound = true := by
  obtain hbound | hready := h
  · exact hbound
  · obtain ⟨hbound, _⟩ := hready s (stateAtFirst_cons_of_kind es hdatagram)
    exact hbound

/-- The rest of the run has the invariant too. -/
theorem BoundInTime.tail {e : Endpoint} {ev : Input} {es : List Input} {s u : State} (h : BoundInTime e (ev :: es) s)
    (hu : step (offerInput ev s) = .next u) (hreset : tracedInstr (s, ev) ≠ some .reset)
    (hbind : ∀ a p, tracedInstr (s, ev) ≠ some (.bind a p false)) : BoundInTime e es u := by
  by_cases hbound : s.bound = true
  · left
    obtain ⟨i, hi, hexec⟩ | ⟨_, rfl⟩ := step_offerInput_next hu
    · exact exec_bound hexec (fun hr => hreset (hr ▸ hi)) (fun a p hb => hbind a p (hb ▸ hi)) hbound
    · exact hbound
  · have hnot : ¬ (tracedInstr (s, ev)).any isDatagram = true := fun hdatagram => hbound (h.of_datagram hdatagram)
    exact .inr fun w hw => h.resolve_left hbound w ((stateAtFirst_cons_of_not_kind hu hnot).trans hw)

theorem BoundInTime.run_moves {e : Endpoint} {es : List Input} {s : State} (h : BoundInTime e es s)
    (hreset : ∀ p ∈ trace es s, tracedInstr p ≠ some .reset)
    (hbind : ∀ p ∈ trace es s, ∀ a port, tracedInstr p ≠ some (.bind a port false)) :
    runEvents es s ≠ .fault .rxDgramNoMove := by
  induction es generalizing s with
  | nil => exact nofun
  | cons ev es ih =>
    rw [runEvents]
    cases hu : step (offerInput ev s) with
    | next u =>
      rw [trace_cons_next hu] at hreset hbind
      obtain ⟨hreset₁, hresets⟩ := List.forall_mem_cons.mp hreset
      obtain ⟨hbind₁, hbinds⟩ := List.forall_mem_cons.mp hbind
      exact ih (h.tail hu hreset₁ hbind₁) hresets hbinds
    | fault r =>
      rintro ⟨⟩
      obtain ⟨hdatagram, hunbound⟩ := step_offerInput_rxDgramNoMove hu
      simp [h.of_datagram hdatagram] at hunbound
    | refused r => exact nofun

end Sys2Proof.Machine
end

section
/-! PROOF. The statements about resets and hazards (70_reset_and_hazards.md). -/

namespace Sys2Proof.Machine

/-- Settles O37: what was issued is the header and the chunks (O23), the header announces the number of chunks
(`announced_count_toInt`), and a receiver that gets so many datagrams holds them joined (`execAll_announced_datagrams`), which is
the data. -/
theorem losslessLinkReassembles : Obligations.LosslessLinkReassembles := by
  intro a a' b data is haccepts hcontrol hmode hbreaks hrun htx hrefused hfour hbound hcap hcrc horder hrem hempty hbrefused
  have hcs : 0 < min 1400 a.mss.toNat := (chunkSize_bounds (sendRefusal_of_accepts haccepts)).1
  have hjoined : (chunksOf data (min 1400 a.mss.toNat)).flatten = data := chunksOf_flatten hcs data
  have hsome : chunksOf data (min 1400 a.mss.toNat) ≠ [] := by
    have ⟨hdata, _⟩ := haccepts
    simp [chunksOf_cons hcs hdata]
  obtain ⟨b', hreceived, hdone, hrxbuf, hout, href⟩ :=
    execAll_announced_datagrams hbound hrem hempty hbrefused (by rwa [hjoined]) hsome (announced_count_toInt haccepts hmode)
      (fun d hd => ⟨(length_le_of_mem_chunksOf hd).trans (Nat.min_le_left ..), hfour d hd⟩)
  rw [hcrc, horder, ← streamIsHeaderThenChunks a a' data is haccepts hcontrol hbreaks hrun htx hrefused] at hreceived
  exact ⟨b', hreceived, hdone, hrxbuf.trans hjoined, hout, href⟩

/-- Settles O14: each byte order reads the checksum bytes the other way round than the other. -/
theorem mixedOrderChecksumTest : Obligations.MixedOrderChecksumTest :=
  fun alg c => ⟨decodeHeader_encodeHeader_swapped alg c fun _ _ => rfl,
    decodeHeader_encodeHeader_swapped alg c fun _ _ => rfl⟩

/-- Settles O50: a clean state has nothing in flight, so nothing is issued before DEST is set (`DestSetInTime.run_outputs`), and no
datagram arrives before the end is bound (`BoundInTime.run_moves`). -/
theorem launchPremisesSuffice : Obligations.LaunchPremisesSuffice := by
  refine fun es s e hclean _ hreset => ⟨fun hset t hrun => ?_, fun hbind hready => ?_⟩
  · obtain ⟨_, hcleanIdle⟩ := resetMeetsInvariants
    obtain ⟨_, hidle⟩ := hcleanIdle s hclean
    obtain ⟨os, hos, hnone⟩ := DestSetInTime.run_outputs (.inr ⟨hidle, hset⟩) hreset hrun
    rwa [newOutputs_of_append hos]
  · exact BoundInTime.run_moves (.inr hready) hreset hbind

/-- Settles O51: RESET's arm gives every element the value of `State.powerOn` (R39). -/
theorem resetSetsEveryElement : Obligations.ResetSetsEveryElement :=
  fun s => exec_reset s

/-- Settles O59: with bytes to send a write is outstanding or a deadline armed (R40), and the oldest undelivered datagram is none
exactly when all those held are delivered. -/
theorem overExactlyWhenNothingToSend : Obligations.OverExactlyWhenNothingToSend := by
  refine ⟨fun _ => SenderControl.over_iff, fun l ha hb => ?_⟩
  rw [LinkOver, ha.over_iff, hb.over_iff, Link.oldest_eq_none_iff]
  rfl

end Sys2Proof.Machine
end
